-- ==== Sys2Proof/Word.lean ====
section
/-! DEFINITION. The word types of the block (spec 00_scope R6, R7): every integer is unsigned, and a
binary32 value is held as its 32-bit pattern. -/

namespace Sys2Proof

/-- `u8`. -/
abbrev Byte := BitVec 8
/-- `u16`. -/
abbrev U16 := BitVec 16
/-- `u32`: one word of the non-volatile sector. -/
abbrev U32 := BitVec 32
/-- `u64`: timer ticks. -/
abbrev U64 := BitVec 64
/-- `f32`: a binary32 value as its 32-bit pattern (R7: `bits` and `f32_of_bits` are the identity). -/
abbrev F32 := BitVec 32

end Sys2Proof
end

