-- ==== Sys2Proof/Syntax.lean ====
section
/-! DEFINITION. The instruction set: one constructor per row of spec/opcode_table.json (30_encoding R81
to R86, R96; 44_supervisor R240; 70_reset R291). -/

namespace Sys2Proof

/-- The six words of a formatted record, the operand of NVS_PROGRAM (30_encoding R92). -/
structure RecordWords where
  w0 : U32
  w1 : U32
  w2 : U32
  w3 : U32
  w4 : U32
  w5 : U32
deriving DecidableEq, Repr

/-- A PersistedRecord value; the magic word is not part of it (41_nonvolatile_store, introduction). -/
structure Record where
  kpBits : U32
  kiBits : U32
  kdBits : U32
  interval : U64
deriving DecidableEq, Repr

/-- The commands of the serial protocol and the local operations of the components. -/
inductive Instr where
  /-- HV_ENABLE, opcode 0x01 (R82, R196). -/
  | hvEnable (en : Byte)
  /-- GET_MEAS, opcode 0x02 (R83, R197). -/
  | getMeas
  /-- SET_PWM, opcode 0x03 (R84, R198). -/
  | setPwm (period width : U16)
  /-- FIRE_PULSE, opcode 0x04 (R85, R199). -/
  | firePulse (duration : U16)
  /-- UNDEFINED, every other opcode (R86, R200). -/
  | undefined (op : Byte)
  /-- Q_TRY_PUSH (R111). -/
  | qTryPush (b : Byte)
  /-- Q_POP_BLOCKING (R112). -/
  | qPopBlocking
  /-- Q_HAS_DATA (R113). -/
  | qHasData
  /-- RX_EVENT (R114). -/
  | rxEvent (b : Byte)
  /-- NVS_ERASE (R131). -/
  | nvsErase
  /-- NVS_PROGRAM (R132). -/
  | nvsProgram (w : RecordWords)
  /-- NVS_READ_RECORD (R133). -/
  | nvsReadRecord
  /-- NVS_WRITE_RECORD (R134). -/
  | nvsWriteRecord (r : Record)
  /-- PID_NEW (R151). -/
  | pidNew
  /-- PID_RESTORE (R152). -/
  | pidRestore
  /-- PID_PERSIST (R153). -/
  | pidPersist
  /-- PID_NEEDS_CONTROL (R154). -/
  | pidNeedsControl (now : U64)
  /-- PID_SET_SETPOINT (R155). -/
  | pidSetSetpoint (v : F32)
  /-- PID_GET_SETPOINT (R156). -/
  | pidGetSetpoint
  /-- PID_STEP (R157). -/
  | pidStep (m : U16) (now : U64)
  /-- SUP_EVAL (R231). -/
  | supEval
  /-- LOP_SET_SETPOINT: `lop(SET_SETPOINT(v))` taken in P0 (R240). -/
  | lopSetSetpoint (v : F32)
  /-- LOP_GET_SETPOINT: `lop(GET_SETPOINT)` taken in P0 (R240). -/
  | lopGetSetpoint
  /-- LOP_PERSIST: `lop(PERSIST)` taken in P0 (R240). -/
  | lopPersist
  /-- RESET (R291). -/
  | reset
deriving DecidableEq, Repr

/-- The four defined opcodes (30_encoding R99). -/
def definedOpcode (op : Byte) : Bool := op == 0x01#8 || op == 0x02#8 || op == 0x03#8 || op == 0x04#8

/-- The rows that have a byte encoding: the four commands and UNDEFINED. -/
def Instr.isCommand : Instr → Bool
  | .hvEnable _ | .getMeas | .setPwm _ _ | .firePulse _ | .undefined _ => true
  | .qTryPush _ | .qPopBlocking | .qHasData | .rxEvent _ | .nvsErase | .nvsProgram _
  | .nvsReadRecord | .nvsWriteRecord _ | .pidNew | .pidRestore | .pidPersist
  | .pidNeedsControl _ | .pidSetSetpoint _ | .pidGetSetpoint | .pidStep _ _ | .supEval
  | .lopSetSetpoint _ | .lopGetSetpoint | .lopPersist | .reset => false

end Sys2Proof
end

