-- ==== Sys2Proof/WellFormed.lean ====
section
/-! DEFINITION. Which terms of `Instr` stand for an instruction. Operand widths are in the types, every
operand value is legal to encode (30_encoding R99), so the one check is that UNDEFINED carries an
opcode that is undefined (R86). -/

namespace Sys2Proof

/-- A well-formed instruction: UNDEFINED holds none of the four defined opcodes (R86). -/
def Instr.wellFormed : Instr → Bool
  | .undefined op => !definedOpcode op
  | .hvEnable _ | .getMeas | .setPwm _ _ | .firePulse _
  | .qTryPush _ | .qPopBlocking | .qHasData | .rxEvent _ | .nvsErase | .nvsProgram _
  | .nvsReadRecord | .nvsWriteRecord _ | .pidNew | .pidRestore | .pidPersist
  | .pidNeedsControl _ | .pidSetSetpoint _ | .pidGetSetpoint | .pidStep _ _ | .supEval
  | .lopSetSetpoint _ | .lopGetSetpoint | .lopPersist | .reset => true

end Sys2Proof
end

