-- ==== Sys2Proof/Decode.lean ====
section
/-! DEFINITION. The decoder of command frames and its inverse, from 30_encoding R80 to R90. The decoder
is total on any bytes: it answers an instruction and the bytes after its frame, or rejects by name. -/

namespace Sys2Proof

/-! ## Bytes and 16-bit values (00_scope R6) -/

/-- `be16(h, l)`: the first byte is the more significant (30_encoding R88). -/
def be16 (h l : Byte) : U16 := (h.zeroExtend 16 <<< 8) ||| l.zeroExtend 16
/-- `hi8(v) = v[15:8]`. -/
def hi8 (v : U16) : Byte := (v >>> 8).truncate 8
/-- `lo8(v) = v[7:0]`. -/
def lo8 (v : U16) : Byte := v.truncate 8

/-! ## Decoding -/

/-- `npl(opc)`: how many payload bytes follow the opcode (R87). -/
def npl (op : Byte) : Nat :=
  if op = 0x01#8 then 1 else if op = 0x02#8 then 0 else if op = 0x03#8 then 4 else if op = 0x04#8 then 2 else 0

/-- The length of a frame, a function of byte 0 alone (R87). -/
def frameLength (op : Byte) : Nat := npl op + 1

/-- The instruction of the frame with opcode `op` and payload latches `b1` to `b4`; the latches past
`npl op` are not looked at (R82 to R86, R88). -/
def decodeFrame (op b1 b2 b3 b4 : Byte) : Instr :=
  if op = 0x01#8 then .hvEnable b1
  else if op = 0x02#8 then .getMeas
  else if op = 0x03#8 then .setPwm (be16 b1 b2) (be16 b3 b4)
  else if op = 0x04#8 then .firePulse (be16 b1 b2)
  else .undefined op

/-- Why bytes are no complete frame. -/
inductive DecodeError where
  /-- There is no byte to read an opcode from. -/
  | empty
  /-- The payload of `op` is not complete: only `have_` of its bytes are there. -/
  | truncated (op : Byte) (have_ : Nat)
deriving DecidableEq, Repr

/-- Decode one frame from the front of a byte string (R80, R87): the instruction and the bytes after its
frame. -/
def decode : List Byte → Except DecodeError (Instr × List Byte)
  | [] => .error .empty
  | op :: rest =>
    if rest.length < npl op then .error (.truncated op rest.length)
    else .ok (decodeFrame op (rest.getD 0 0#8) (rest.getD 1 0#8) (rest.getD 2 0#8) (rest.getD 3 0#8),
      rest.drop (npl op))

/-! ## Encoding -/

/-- The frame of a command, in wire order (R82 to R86); the local operations have none (R96). -/
def encode : Instr → Option (List Byte)
  | .hvEnable en => some [0x01#8, en]
  | .getMeas => some [0x02#8]
  | .setPwm period width => some [0x03#8, hi8 period, lo8 period, hi8 width, lo8 width]
  | .firePulse duration => some [0x04#8, hi8 duration, lo8 duration]
  | .undefined op => some [op]
  | .qTryPush _ | .qPopBlocking | .qHasData | .rxEvent _ | .nvsErase | .nvsProgram _
  | .nvsReadRecord | .nvsWriteRecord _ | .pidNew | .pidRestore | .pidPersist
  | .pidNeedsControl _ | .pidSetSetpoint _ | .pidGetSetpoint | .pidStep _ _ | .supEval
  | .lopSetSetpoint _ | .lopGetSetpoint | .lopPersist | .reset => none

/-! ## The opcode table's numbering

30_encoding section 9: the table's `match` and `mask` treat the frame as one unsigned number whose most
significant byte is byte 0, the opcode. -/

/-- The `n` bytes of `w`, most significant first. -/
def bytesOfNumber : Nat → Nat → List Byte
  | 0, _ => []
  | n + 1, w => BitVec.ofNat 8 (w >>> (8 * n)) :: bytesOfNumber n w

/-- The frame whose table number is `w` of `nbits` bits, followed by zero bytes up to the longest
payload. -/
def tableBytes (nbits w : Nat) : List Byte := bytesOfNumber (nbits / 8) w ++ [0#8, 0#8, 0#8, 0#8]

/-- The instruction the decoder reads from the table's number `w`; none for a row without bits. -/
def decodeTableWord (nbits w : Nat) : Option Instr :=
  if nbits < 8 then none
  else match decode (tableBytes nbits w) with
    | .ok (i, _) => some i
    | .error _ => none

end Sys2Proof
end

