-- ==== Sys2Proof/Config.lean ====
section
/-! DEFINITION. The implementation parameters of 00_scope R1 and R2, the values the spec leaves free,
and the choices of the environment (00_scope R4, R5; 70_reset R306).

A parameter with a reference value has it as its definition. A parameter marked OPEN, and every free
value, is an opaque constant: nothing proves which value it has. -/

namespace Sys2Proof

/-- A request on the `lop` port (00_scope R5, 44_supervisor R240). -/
inductive LopRequest where
  /-- `SET_SETPOINT(v)` -/
  | setSetpoint (v : F32)
  /-- `GET_SETPOINT` -/
  | getSetpoint
  /-- `PERSIST` -/
  | persist
deriving DecidableEq, Repr, Inhabited

/-- The levels the environment presents at the input ports (00_scope R5): `adc()`, `now()`, `ctl_en`
(10_state R34) and the request offered on `lop`, if any. -/
structure Ports where
  adc : U16
  now : U64
  ctlEn : Bool
  lop : Option LopRequest
deriving DecidableEq, Repr, Inhabited

/-- Who takes the next atomic step (20_memory R65), or which event of the power supply or the platform
happens (70_reset R306). -/
inductive Mover where
  /-- The environment offers `rx_byte(b)` and RX takes it. -/
  | rx (b : Byte)
  /-- The main-loop agent takes its next step. -/
  | ml
  /-- The platform restarts the block. -/
  | restart
  /-- Power is lost and comes back; the next power-up runs the reset sequence (60_exceptions R273). -/
  | powerLoss
deriving DecidableEq, Repr, Inhabited

/-- One choice of the environment: who moves, and what stands at the input ports when it does. -/
structure Move where
  mover : Mover
  ports : Ports
deriving DecidableEq, Repr, Inhabited

namespace Config

/-! ## Parameters with a reference value (R1) -/

/-- `QUEUE_CAPACITY`, reference 128. -/
def queueCapacity : Nat := 128
/-- `LIMIT`, reference 200.0 (bits 0x43480000). -/
def limit : F32 := 0x43480000#32
/-- `DANGER_THRESHOLD`, reference 67. -/
def dangerThreshold : U16 := 67#16
/-- `MAGIC`, reference 0x444E4A4E. -/
def magic : U32 := 0x444E4A4E#32
/-- `RECORD_WORDS`: six words, 24 bytes. -/
def recordWords : Nat := 6
/-- `SETPOINT_DEFAULT`, the spec's choice 0.0 (decision D22). -/
def setpointDefault : F32 := 0#32
/-- `ERASED_WORD`, reference 0xFFFFFFFF (R2 requires only that it differs from `MAGIC`). -/
def erasedWord : U32 := 0xFFFFFFFF#32
/-- `NVS_BYTE_ORDER`: true for little-endian, the default. No rule reads the sector as bytes (20_memory
R56); only the byte view `nvsByteAt` uses it. -/
def nvsLittleEndian : Bool := true

/-! ## OPEN parameters (R1, 93_implementation_defined U17) -/

/-- `KP_DEFAULT`, OPEN. -/
opaque kpDefault : F32
/-- `KI_DEFAULT`, OPEN. -/
opaque kiDefault : F32
/-- `KD_DEFAULT`, OPEN. -/
opaque kdDefault : F32
/-- `CTRL_INTERVAL_DEFAULT`, OPEN. -/
opaque ctrlIntervalDefault : U64
/-- How many words the sector has beyond the record, OPEN. -/
opaque sectorWordsBeyondRecord : Nat
/-- `SECTOR_WORDS`, OPEN, at least `RECORD_WORDS` (R2). -/
def sectorWords : Nat := sectorWordsBeyondRecord + 6

/-! ## Free values: what the spec leaves open

Applied to a counter of the state (`draws`, `tick`) or to the operands they depend on. -/

/-- The value drawn for a control step whose raw control value is NaN, before it is brought into range
(42_pid R166). -/
opaque freeOutput : Nat → U16
/-- The first value the blink drives on the hazard indicator (93 U1). -/
opaque freeBlink : Nat → Bool
/-- Sign and payload of the NaN an addition returns (R7 fixes no NaN pattern). -/
opaque addNaN : F32 → F32 → F32
/-- Sign and payload of the NaN a multiplication returns. -/
opaque mulNaN : F32 → F32 → F32
/-- `trunc_u16` outside its domain (R7 defines it for `0.0 <= a < 65536.0` only). -/
opaque truncOutside : F32 → U16
/-- `meas` after RESET (10_state R38, 93 U4). -/
opaque resetMeas : Nat → U16
/-- `op` after RESET. -/
opaque resetOp : Nat → Byte
/-- `pl[i]` after RESET, for the latch `i`. -/
opaque resetPl : Nat → Nat → Byte
/-- `pwm_period` after RESET. -/
opaque resetPwmPeriod : Nat → U16
/-- `pwm_width` after RESET. -/
opaque resetPwmWidth : Nat → U16
/-- `ind_hazard` after RESET. -/
opaque resetIndHazard : Nat → Bool
/-- `ind_safe` after RESET. -/
opaque resetIndSafe : Nat → Bool
/-- The environment's choice number `n` where no script fixes it (20_memory R65, 70_reset R306). -/
opaque envMove : Nat → Move

end Config
end Sys2Proof
end

