-- ==== Sys2Proof/Machine/State.lean ====
section
/-! DEFINITION. The state of the block, as the tuple of 10_state R10 with the values of R38, beside the
model's own fields (the output trace, the environment's choices, the counters of free values). Plain
data: lists, numbers and enumerations. -/

namespace Sys2Proof.Machine

/-- `ds`, the dispatcher state (10_state R20). -/
inductive DispatchState where
  | waitOpcode
  | readPayload
  | execute
  | respond
deriving DecidableEq, Repr

/-- `mlp`, the main-loop phase (10_state R21, 44_supervisor R233). -/
inductive Phase where
  | p0Local
  | p1Sample
  | p2Control
  | p3Dispatch
  | p4Supervise
deriving DecidableEq, Repr

/-- `fault_cause` (10_state R22, 60_exceptions R251). -/
inductive FaultCause where
  | none
  | unknownOpcode
  | badEnableValue
  | queueOverflow
deriving DecidableEq, Repr

/-- `nvs_busy` (10_state R36). -/
inductive NvsBusy where
  | idle
  | erasedPendingProgram
deriving DecidableEq, Repr

/-- The two status indicators (00_scope R5). -/
inductive Indicator where
  | hazard
  | safe
deriving DecidableEq, Repr

/-- An output event (00_scope R5, R9). -/
inductive Event where
  /-- `Tx(b)` -/
  | tx (b : Byte)
  /-- `SetHv(en)` -/
  | setHv (en : Bool)
  /-- `SetPwm(period, width)` -/
  | setPwm (period width : U16)
  /-- `FirePulse(duration)` -/
  | firePulse (duration : U16)
  /-- `SetIndicator(which, on)` -/
  | setIndicator (which : Indicator) (on : Bool)
  /-- `Erase` -/
  | erase
  /-- `Program(words)` -/
  | program (w : RecordWords)
  /-- `CtlOut(v)` -/
  | ctlOut (v : U16)
  /-- `LopResult(v)` -/
  | lopResult (v : F32)
deriving DecidableEq, Repr

/-- What a component operation returned to its caller (the `Result` of R111, R112, R113, R133, R154,
R156, R157). The model's own: it shows the results of operations performed as instructions. -/
inductive OpResult where
  /-- Nothing returned yet. -/
  | none
  /-- Q_TRY_PUSH returned `OK`. -/
  | ok
  /-- Q_TRY_PUSH returned `FULL`. -/
  | full
  /-- Q_POP_BLOCKING returned a byte. -/
  | byte (b : Byte)
  /-- Q_HAS_DATA or PID_NEEDS_CONTROL returned a truth value. -/
  | flag (b : Bool)
  /-- NVS_READ_RECORD returned `NONE` or a record. -/
  | record (r : Option Record)
  /-- PID_GET_SETPOINT returned a setpoint. -/
  | setpoint (v : F32)
  /-- PID_STEP returned a command. -/
  | output (v : U16)
deriving DecidableEq, Repr

/-- The payload latches `pl[0..3]` (10_state R15). -/
structure Payload where
  b0 : Byte
  b1 : Byte
  b2 : Byte
  b3 : Byte
deriving DecidableEq, Repr

/-- The sector as (word index, word) pairs: indices strictly rising, no pair with the value an unlisted
index reads as, `ERASED_WORD` (20_memory R50, R52, R53). -/
abbrev Nvs := List (Nat × U32)

/-- The state of the block. -/
structure State where
  /-- `q`, oldest byte first (R11). -/
  q : List Byte
  /-- `meas` (R13). -/
  meas : U16
  /-- `op` (R14). -/
  op : Byte
  /-- `pl[0..3]` (R15). -/
  pl : Payload
  /-- `plc` (R15). -/
  plc : Nat
  /-- `rsi` (R15). -/
  rsi : Nat
  /-- `pwm_period` (R16). -/
  pwmPeriod : U16
  /-- `pwm_width` (R16). -/
  pwmWidth : U16
  /-- `hv_enabled` (R17). -/
  hvEnabled : Bool
  /-- `ind_hazard` (R18). -/
  indHazard : Bool
  /-- `ind_safe` (R18). -/
  indSafe : Bool
  /-- `ds` (R20). -/
  ds : DispatchState
  /-- `mlp` (R21). -/
  mlp : Phase
  /-- `faulted` (R22). -/
  faulted : Bool
  /-- `fault_cause` (R22). -/
  faultCause : FaultCause
  /-- `kp` (R24). -/
  kp : F32
  /-- `ki` (R25). -/
  ki : F32
  /-- `kd` (R26). -/
  kd : F32
  /-- `p_limit` (R27). -/
  pLimit : F32
  /-- `i_limit` (R27). -/
  iLimit : F32
  /-- `d_limit` (R27). -/
  dLimit : F32
  /-- `out_limit` (R27). -/
  outLimit : F32
  /-- `setpoint` (R28). -/
  setpoint : F32
  /-- `integral` (R29). -/
  integral : F32
  /-- `prev_meas` (R30). -/
  prevMeas : Option F32
  /-- `interval` (R32). -/
  interval : U64
  /-- `last_update` (R33). -/
  lastUpdate : U64
  /-- `nvs` (R35). -/
  nvs : Nvs
  /-- `nvs_busy` (R36). -/
  nvsBusy : NvsBusy
  /-- The model's own: the output trace, oldest event first (00_scope R9). -/
  trace : List Event
  /-- The model's own: the levels at the input ports. -/
  ports : Ports
  /-- The model's own: the environment's scripted choices still to come. -/
  env : List Move
  /-- The model's own: how many choices were taken from the opaque environment. -/
  tick : Nat
  /-- The model's own: how many free values were drawn. -/
  draws : Nat
  /-- The model's own: the next value the blink drives; none before the first blink. -/
  blinkNext : Option Bool
  /-- The model's own: the result of the last component operation performed as an instruction. -/
  ret : OpResult
deriving DecidableEq, Repr

/-- The block has no step that ends in a fault of the model: a fatal condition is a NEXT state, the
Faulted state of 60_exceptions R254, and no rule can form an address that does not exist (20_memory
R58). So this type has no constructor. -/
inductive Fault
deriving DecidableEq, Repr

/-- Why the model declines to run an instruction. -/
inductive Refusal where
  /-- Raised by `exec` alone, for an instruction that has no meaning yet. Safe: nothing is claimed of it. -/
  | notModelled (mnemonic : String)
  /-- Raised by NVS_PROGRAM on a sector that is not erased (93_implementation_defined U8: a model should
  refuse such a call). Safe: no claim can be made about the sector's content then. -/
  | programNotErased
deriving DecidableEq, Repr

/-- What one step answers. -/
abbrev Result := Host.Outcome State Fault Refusal

/-- The block right after the reset sequence at the first power-up (10_state R38, 70_reset R291) with an
erased sector, no choice of the environment scripted, and 0 or false in every register the spec gives no
reset value. The trace holds the one event of the reset sequence. -/
def State.reset : State :=
  { q := []
    meas := 0#16
    op := 0#8
    pl := ⟨0#8, 0#8, 0#8, 0#8⟩
    plc := 0
    rsi := 0
    pwmPeriod := 0#16
    pwmWidth := 0#16
    hvEnabled := false
    indHazard := false
    indSafe := false
    ds := .waitOpcode
    mlp := .p0Local
    faulted := false
    faultCause := .none
    kp := Config.kpDefault
    ki := Config.kiDefault
    kd := Config.kdDefault
    pLimit := Config.limit
    iLimit := Config.limit
    dLimit := Config.limit
    outLimit := Config.limit
    setpoint := Config.setpointDefault
    integral := 0#32
    prevMeas := none
    interval := Config.ctrlIntervalDefault
    lastUpdate := 0#64
    nvs := []
    nvsBusy := .idle
    trace := [.setHv false]
    ports := { adc := 0#16, now := 0#64, ctlEn := false, lop := none }
    env := []
    tick := 0
    draws := 0
    blinkNext := none
    ret := .none }

end Sys2Proof.Machine
end

