-- ==== Sys2Proof/Machine/Flags.lean ====
section
/-! DEFINITION. The derived flags of 10_state R23 and the parameter check of 43_command R205. None is
stored; the block has no arithmetic condition codes. -/

namespace Sys2Proof.Machine

/-- `has_data` (R23, R113). -/
def hasData (s : State) : Bool := !s.q.isEmpty
/-- `queue_full` (R23). -/
def queueFull (s : State) : Bool := s.q.length == Config.queueCapacity
/-- `danger` (R23, R231): an unsigned 16-bit comparison, or the high voltage enabled. -/
def danger (s : State) : Bool := Config.dangerThreshold.ule s.meas || s.hvEnabled
/-- The absolute difference of two timestamps, larger minus smaller (R154, R206 (e)). -/
def tickDistance (a b : U64) : U64 := if b.ule a then a - b else b - a
/-- `needs_control` (R154): control enabled at the port, and the distance to the last update strictly
above the interval. -/
def needsControl (now : U64) (s : State) : Bool :=
  s.ports.ctlEn && s.interval.ult (tickDistance now s.lastUpdate)
/-- `pwm_ok(period, width)` (R205). -/
def pwmOk (period width : U16) : Bool := period != 0#16 && width.ule period

end Sys2Proof.Machine
end

