-- ==== Sys2Proof/Machine/Operands.lean ====
section
/-! DEFINITION. Operands: the payload latches as the dispatcher fills them (43_command R193), the
instruction that stands in the latches, the words of a formatted record (30_encoding R92, R94), and the
bytes of the response frames (R90). -/

namespace Sys2Proof.Machine

/-- `pl[i] <- b`. There are four latches; no rule uses another index (10_state R15). -/
def Payload.set (p : Payload) (i : Nat) (b : Byte) : Payload :=
  match i with
  | 0 => { p with b0 := b }
  | 1 => { p with b1 := b }
  | 2 => { p with b2 := b }
  | 3 => { p with b3 := b }
  | _ => p

/-- The instruction the latches `op` and `pl` hold once the frame is complete. -/
def latchedInstr (s : State) : Instr := decodeFrame s.op s.pl.b0 s.pl.b1 s.pl.b2 s.pl.b3

/-- The upper 32 bits of the interval (R94). -/
def intervalHi (t : U64) : U32 := (t >>> 32).truncate 32
/-- The lower 32 bits of the interval (R94). -/
def intervalLo (t : U64) : U32 := t.truncate 32
/-- `(zext_64(hi) << 32) | zext_64(lo)` (R94). -/
def intervalOf (hi lo : U32) : U64 := (hi.zeroExtend 64 <<< 32) ||| lo.zeroExtend 64

/-- The formatter: the six words of a record (R92, R134). -/
def formatRecord (r : Record) : RecordWords :=
  ⟨Config.magic, r.kpBits, r.kiBits, r.kdBits, intervalHi r.interval, intervalLo r.interval⟩

/-- The record of the gains and the interval in use (R153). -/
def currentRecord (s : State) : Record := ⟨s.kp, s.ki, s.kd, s.interval⟩

/-- `resp` of HV_ENABLE: the opcode echoed (R195). -/
def respHvEnable : List Byte := [0x01#8]
/-- `resp` of GET_MEAS: the measurement, most significant byte first (R195, R197). -/
def respGetMeas (s : State) : List Byte := [hi8 s.meas, lo8 s.meas]
/-- `resp` of SET_PWM: the opcode, or its bitwise complement as NACK (R91, R195, R198). -/
def respSetPwm (period width : U16) : List Byte := if pwmOk period width then [0x03#8] else [~~~0x03#8]
/-- `resp` of FIRE_PULSE: the opcode echoed (R195). -/
def respFirePulse : List Byte := [0x04#8]

end Sys2Proof.Machine
end

