-- ==== Sys2Proof/Machine/Ops.lean ====
section
/-! DEFINITION. The named operations every meaning is built from: output events, the queue, the sector,
entering the Faulted state and the blink, drawing a free value, and the response step. -/

namespace Sys2Proof.Machine

/-! ## Results and output -/

/-- Go on with the state of a result. -/
def andThen (r : Result) (k : State → Result) : Result :=
  match r with
  | .next s => k s
  | .fault f => .fault f
  | .refused e => .refused e

/-- `emit E` (00_scope R8). -/
def emit (e : Event) (s : State) : State := { s with trace := s.trace ++ [e] }

/-- While `faulted` is set no rule of the components is enabled (60_exceptions R254): the operation does
not happen and nothing changes. -/
def whenLive (s : State) (k : Result) : Result := if s.faulted then .next s else k

/-! ## Entering the Faulted state, and leaving it

`raise Fatal(cause)` saves nothing and changes nothing but the two latches (R254). There is no return
(R256): only RESET clears `faulted`. -/

/-- `Fatal(cause)` (R254): the first cause is kept. -/
def fatal (cause : FaultCause) (s : State) : State :=
  { s with faulted := true, faultCause := if s.faulted then s.faultCause else cause }

/-- The step that raises a fatal condition: it ends there (R254). -/
def raiseFatal (cause : FaultCause) (s : State) : Result := .next (fatal cause s)

/-- The value the next blink drives: the opposite of the last one, and free at first (R255, 93 U1). -/
def blinkValue (s : State) : Bool :=
  match s.blinkNext with
  | some v => v
  | none => Config.freeBlink s.draws

/-- One blink of the hazard indicator, the only activity of the Faulted state (R255). -/
def blink (s : State) : State :=
  emit (.setIndicator .hazard (blinkValue s))
    { s with
      indHazard := blinkValue s
      blinkNext := some (!blinkValue s)
      draws := if s.blinkNext.isNone then s.draws + 1 else s.draws }

/-! ## Free values -/

/-- A draw from `0 .. bound` (R166). -/
def drawUpTo (bound : U16) (s : State) : U16 :=
  BitVec.ofNat 16 ((Config.freeOutput s.draws).toNat % (bound.toNat + 1))

/-! ## The queue (20_memory R51, R60; 40_transport R111 to R113) -/

/-- Q_TRY_PUSH (R111): the new state, or none for `FULL`. -/
def qPush (b : Byte) (s : State) : Option State :=
  if queueFull s then none else some { s with q := s.q ++ [b] }

/-- The removal step of Q_POP_BLOCKING (R112): none while the queue is empty, when ML is held. -/
def qPop (s : State) : Option (Byte × State) :=
  match s.q with
  | [] => none
  | b :: rest => some (b, { s with q := rest })

/-! ## The sector (20_memory R52, R53, R61) -/

/-- `MemRead(NVS, i, 4)`: an index that is not listed holds `ERASED_WORD`. -/
def nvsRead (n : Nvs) (i : Nat) : U32 :=
  match n with
  | [] => Config.erasedWord
  | (j, w) :: rest => if j = i then w else nvsRead rest i

/-- Put a pair into a list of rising indices, in place of one with the same index. -/
def nvsInsert (n : Nvs) (i : Nat) (v : U32) : Nvs :=
  match n with
  | [] => [(i, v)]
  | (j, w) :: rest =>
    if i < j then (i, v) :: (j, w) :: rest
    else if i = j then (i, v) :: rest
    else (j, w) :: nvsInsert rest i v

/-- Take an index out of the list. -/
def nvsRemove (n : Nvs) (i : Nat) : Nvs :=
  match n with
  | [] => []
  | (j, w) :: rest => if i = j then rest else (j, w) :: nvsRemove rest i

/-- `MemWrite(NVS, i, 4, v)`. Writing `ERASED_WORD` takes the entry out, so that equal sectors are equal
lists. -/
def nvsWrite (n : Nvs) (i : Nat) (v : U32) : Nvs :=
  if v = Config.erasedWord then nvsRemove n i else nvsInsert n i v

/-- The canonical form: indices strictly rising and all above `lo`, inside the sector, no entry equal to
`ERASED_WORD`. -/
def nvsWfFrom (lo : Nat) (n : Nvs) : Bool :=
  match n with
  | [] => true
  | (j, w) :: rest =>
    decide (lo ≤ j) && decide (j < Config.sectorWords) && decide (w ≠ Config.erasedWord)
      && nvsWfFrom (j + 1) rest

/-- The canonical form of a sector. -/
def Memory.wf (n : Nvs) : Bool := nvsWfFrom 0 n

/-- Every word of the sector is erased. -/
def nvsErased (n : Nvs) : Bool := n.all fun p => p.2 == Config.erasedWord

/-- Byte `k` of the sector under `NVS_BYTE_ORDER` (20_memory R56). No rule reads it. -/
def nvsByteAt (n : Nvs) (k : Nat) : Byte :=
  let shift := if Config.nvsLittleEndian then 8 * (k % 4) else 8 * (3 - k % 4)
  (nvsRead n (k / 4) >>> shift).truncate 8

/-- NVS_ERASE (41_nonvolatile R131). -/
def eraseSector (s : State) : State := emit .erase { s with nvs := [] }

/-- The six words written in one pass (R132). -/
def nvsProgram (n : Nvs) (w : RecordWords) : Nvs :=
  nvsWrite (nvsWrite (nvsWrite (nvsWrite (nvsWrite (nvsWrite n 0 w.w0) 1 w.w1) 2 w.w2) 3 w.w3) 4 w.w4)
    5 w.w5

/-- NVS_PROGRAM (R132), defined only on an erased sector (93 U8). -/
def programSector (w : RecordWords) (s : State) : Result :=
  if nvsErased s.nvs then .next (emit (.program w) { s with nvs := nvsProgram s.nvs w })
  else .refused .programNotErased

/-- NVS_READ_RECORD, the validator (R133): word 0 alone decides (30_encoding R95). -/
def readRecord (n : Nvs) : Option Record :=
  if nvsRead n 0 = Config.magic then
    some ⟨nvsRead n 1, nvsRead n 2, nvsRead n 3, intervalOf (nvsRead n 4) (nvsRead n 5)⟩
  else none

/-- The next of the two atomic steps of NVS_WRITE_RECORD (R134): the erase, then the program. -/
def writeRecordStep (r : Record) (s : State) : Result :=
  match s.nvsBusy with
  | .idle => .next { eraseSector s with nvsBusy := .erasedPendingProgram }
  | .erasedPendingProgram =>
    andThen (programSector (formatRecord r) s) fun t => .next { t with nvsBusy := .idle }

/-! ## The response step -/

/-- RESPOND_BYTE for the response `resp` (43_command R195): the byte `resp[rsi]` is sent; after the last
one the transaction is complete and ML goes to P4. Past the end there is no byte to send and nothing
happens (no run gets there). -/
def respondByte (resp : List Byte) (s : State) : Result :=
  match resp[s.rsi]? with
  | none => .next s
  | some b =>
    if s.rsi + 1 = resp.length then
      .next (emit (.tx b) { s with rsi := s.rsi + 1, ds := .waitOpcode, mlp := .p4Supervise })
    else .next (emit (.tx b) { s with rsi := s.rsi + 1 })

/-- The step of a command whose execute part is `ex` and whose response is `resp`: EXECUTE, then the
response bytes, each one atomic step of ML (R194, R195). In the other dispatcher states the command has
no step. -/
def commandStep (ex : State → Result) (resp : List Byte) (s : State) : Result :=
  whenLive s <|
    match s.ds with
    | .execute => ex s
    | .respond => respondByte resp s
    | .waitOpcode => .next s
    | .readPayload => .next s

/-- The end of an execute part that raised nothing (R194). -/
def toRespond (s : State) : Result := .next { s with rsi := 0, ds := .respond }

end Sys2Proof.Machine
end

