-- ==== Sys2Proof/Machine/Commands.lean ====
section
/-! DEFINITION. The commands of the serial protocol (43_command_dispatcher R196 to R200). A command's
meaning is its next atomic step: the execute part in `EXECUTE`, then one response byte a step in
`RESPOND`. -/

namespace Sys2Proof.Machine

/-- HV_ENABLE (R196): an enable byte above 1 is fatal before any effect (R253). -/
def execHvEnable (en : Byte) (s : State) : Result :=
  commandStep
    (fun s =>
      if (1#8).ult en then raiseFatal .badEnableValue s
      else toRespond (emit (.setHv (en == 1#8)) { s with hvEnabled := en == 1#8 }))
    respHvEnable s

/-- GET_MEAS (R197): the execute part does nothing; the response is the latch `meas`. -/
def execGetMeas (s : State) : Result := commandStep toRespond (respGetMeas s) s

/-- SET_PWM (R198): accepted parameters are stored and emitted, rejected ones change nothing. -/
def execSetPwm (period width : U16) (s : State) : Result :=
  commandStep
    (fun s =>
      if pwmOk period width then
        toRespond (emit (.setPwm period width) { s with pwmPeriod := period, pwmWidth := width })
      else toRespond s)
    (respSetPwm period width) s

/-- FIRE_PULSE (R199): the pulse lasts until the response step; RX may step in between. -/
def execFirePulse (duration : U16) (s : State) : Result :=
  commandStep (fun s => toRespond (emit (.firePulse duration) s)) respFirePulse s

/-- UNDEFINED (R192, R200): the opcode is latched, the payload count cleared, and the fatal condition
raised; no payload is read and nothing is sent. -/
def execUndefined (op : Byte) (s : State) : Result :=
  whenLive s <| raiseFatal .unknownOpcode { s with op := op, plc := 0 }

end Sys2Proof.Machine
end

