-- ==== Sys2Proof/Machine/Float.lean ====
section
/-! DEFINITION. Binary32 arithmetic of 00_scope R7, on 32-bit patterns: operands are turned into exact
integers, the exact result is computed, and one rounding to nearest, ties to even, brings it back.

Every finite binary32 value is a whole number of units of 2^-149, so sums are exact integers of units
and products exact integers of 2^-298. -/

namespace Sys2Proof.Machine

/-! ## Fields and classes (30_encoding R93) -/

/-- Bit 31, the sign. -/
def f32Neg (x : F32) : Bool := decide (2147483648 ≤ x.toNat)
/-- Bits 30:0. On non-NaN patterns they order magnitudes. -/
def f32Mag (x : F32) : Nat := x.toNat % 2147483648
/-- The pattern of infinity's magnitude. -/
def f32InfMag : Nat := 0x7F800000
/-- `isnan(a)`. -/
def f32IsNaN (x : F32) : Bool := decide (f32InfMag < f32Mag x)
/-- Plus or minus infinity. -/
def f32IsInf (x : F32) : Bool := decide (f32Mag x = f32InfMag)
/-- Neither NaN nor infinite. -/
def f32Finite (x : F32) : Bool := decide (f32Mag x < f32InfMag)
/-- The magnitude that magnitude bits stand for, in units of 2^-149 (30_encoding R93): a subnormal below
2^23, else a significand of 24 bits and an exponent. -/
def magUnits (m : Nat) : Nat :=
  if m < 8388608 then m else (8388608 + m % 8388608) <<< (m / 8388608 - 1)
/-- The magnitude of a finite value, in units of 2^-149. -/
def f32Units (x : F32) : Nat := magUnits (f32Mag x)
/-- A finite value, in units of 2^-149. -/
def f32Int (x : F32) : Int := if f32Neg x then -(f32Units x : Int) else (f32Units x : Int)

/-! ## Rounding -/

/-- The pattern of sign `neg` and magnitude bits `mag`. -/
def f32Pack (neg : Bool) (mag : Nat) : F32 :=
  BitVec.ofNat 32 (if neg then 2147483648 + mag else mag)

/-- `n / 2^k` rounded to nearest, ties to even. -/
def roundShift (n k : Nat) : Nat :=
  let q := n >>> k
  let r := n % (1 <<< k)
  if 1 <<< k < 2 * r then q + 1
  else if 2 * r = 1 <<< k then q + q % 2
  else q

/-- How many low bits of `n`, in units of 2^-(149+sh), a rounding to 24 significant bits drops; never
fewer than `sh`, so that nothing below 2^-149 stays. -/
def dropBits (n sh : Nat) : Nat := max sh (n.log2 + 1 - 24)

/-- The magnitude bits of the binary32 value nearest to `n * 2^-(149+sh)`, ties to even, subnormals kept,
infinity on overflow. A mantissa that rounds up to 2^24 carries into the exponent field. -/
def roundMag (n sh : Nat) : Nat :=
  min f32InfMag ((dropBits n sh - sh) * 8388608 + roundShift n (dropBits n sh))

/-- The binary32 value nearest to a signed magnitude. -/
def f32Round (neg : Bool) (n sh : Nat) : F32 := f32Pack neg (roundMag n sh)

/-- A quiet NaN with the sign and the low payload bits of `p`. R7 fixes no NaN pattern. -/
def quietNaN (p : F32) : F32 := (p &&& 0x803FFFFF#32) ||| 0x7FC00000#32

/-! ## Operations -/

/-- `fneg(a)`: flips the sign bit. -/
def fneg (a : F32) : F32 := a ^^^ 0x80000000#32
/-- `fabs(a)`: clears the sign bit. -/
def fabs (a : F32) : F32 := a &&& 0x7FFFFFFF#32

/-- `fadd(a, b)`. An exact zero sum is `+0.0` unless both operands are negative. -/
def fadd (a b : F32) : F32 :=
  if f32IsNaN a || f32IsNaN b then quietNaN (Config.addNaN a b)
  else if f32IsInf a then
    if f32IsInf b && (f32Neg a != f32Neg b) then quietNaN (Config.addNaN a b) else a
  else if f32IsInf b then b
  else
    let s := f32Int a + f32Int b
    if s = 0 then f32Pack (f32Neg a && f32Neg b) 0
    else f32Round (decide (s < 0)) s.natAbs 0

/-- `fsub(a, b)`. -/
def fsub (a b : F32) : F32 := fadd a (fneg b)

/-- `fmul(a, b)`. -/
def fmul (a b : F32) : F32 :=
  let neg := f32Neg a != f32Neg b
  if f32IsNaN a || f32IsNaN b then quietNaN (Config.mulNaN a b)
  else if f32IsInf a || f32IsInf b then
    if f32Mag a = 0 ∨ f32Mag b = 0 then quietNaN (Config.mulNaN a b) else f32Pack neg f32InfMag
  else f32Round neg (f32Units a * f32Units b) 149

/-- A key that orders non-NaN patterns as the values they stand for; both zeros have key 0. -/
def f32Key (x : F32) : Int := if f32Neg x then -(f32Mag x : Int) else (f32Mag x : Int)
/-- `a < b`, the IEEE ordered comparison: false when either side is NaN. -/
def flt (a b : F32) : Bool := !f32IsNaN a && !f32IsNaN b && decide (f32Key a < f32Key b)
/-- `a > b`. -/
def fgt (a b : F32) : Bool := flt b a

/-- `f32_of_u16(m)`, exact. -/
def f32OfU16 (m : U16) : F32 := f32Round false (m.toNat <<< 149) 0

/-- `trunc_u16(a)`: rounding toward zero for `0.0 <= a < 65536.0`; free elsewhere. -/
def truncU16 (a : F32) : U16 :=
  if !f32IsNaN a && decide (0 ≤ f32Key a) && decide (f32Key a < 0x47800000) then
    BitVec.ofNat 16 (f32Units a >>> 149)
  else Config.truncOutside a

end Sys2Proof.Machine
end

