-- ==== Sys2Proof/Machine/Pid.lean ====
section
/-! DEFINITION. The PID Controller Wrapper (42_pid_controller): construction, restore and persist, the
rate limiter, the setpoint, and the control step with the control law, the defensive clamp and the
truncating remap. -/

namespace Sys2Proof.Machine

/-! ## Construction and restore -/

/-- PID_RESTORE (R152): the three gains and the interval from a valid record, or nothing. -/
def restoreController (s : State) : State :=
  match readRecord s.nvs with
  | none => s
  | some r => { s with kp := r.kpBits, ki := r.kiBits, kd := r.kdBits, interval := r.interval }

/-- The defaults of PID_NEW, before the restore (R151). -/
def controllerDefaults (s : State) : State :=
  { s with
    kp := Config.kpDefault
    ki := Config.kiDefault
    kd := Config.kdDefault
    pLimit := Config.limit
    iLimit := Config.limit
    dLimit := Config.limit
    outLimit := Config.limit
    setpoint := Config.setpointDefault
    integral := 0#32
    prevMeas := none
    interval := Config.ctrlIntervalDefault
    lastUpdate := 0#64 }

/-- PID_NEW (R151). -/
def newController (s : State) : State := restoreController (controllerDefaults s)

/-- PID_SET_SETPOINT (R155): the integral term is cleared whatever the new value. -/
def storeSetpoint (v : F32) (s : State) : State := { s with setpoint := v, integral := 0#32 }

/-! ## The control law -/

/-- What a control law may look at (R161). -/
structure LawInput where
  kp : F32
  ki : F32
  kd : F32
  pLimit : F32
  iLimit : F32
  dLimit : F32
  outLimit : F32
  setpoint : F32
  integral : F32
  prevMeas : Option F32
  m : U16

/-- What a control law returns: the raw value and its new memory (R161). -/
structure LawOutput where
  raw : F32
  integral : F32
  prevMeas : Option F32

/-- The law's inputs in a state. -/
def lawInput (m : U16) (s : State) : LawInput :=
  { kp := s.kp, ki := s.ki, kd := s.kd
    pLimit := s.pLimit, iLimit := s.iLimit, dLimit := s.dLimit, outLimit := s.outLimit
    setpoint := s.setpoint, integral := s.integral, prevMeas := s.prevMeas, m := m }

/-- The limiter `lim(L, v)` (R162); NaN passes through. -/
def lim (l v : F32) : F32 :=
  if fgt v l then l
  else if flt v (fneg l) then fneg l
  else v

/-- The change of the sample since the last step; `+0.0` on the first one (R163). -/
def sampleDelta (prev : Option F32) (x : F32) : F32 :=
  match prev with
  | none => 0#32
  | some y => fsub x y

/-- `PidLaw`: the default control law (R163), operation by operation in the order written there. -/
def defaultLaw (i : LawInput) : LawOutput :=
  let x := f32OfU16 i.m
  let error := fsub i.setpoint x
  let p := lim i.pLimit (fmul error i.kp)
  let integral := lim i.iLimit (fadd i.integral (fmul error i.ki))
  let d := lim i.dLimit (fmul (fneg (sampleDelta i.prevMeas x)) i.kd)
  { raw := lim i.outLimit (fadd (fadd p integral) d), integral := integral, prevMeas := some x }

/-! ## The control step -/

/-- Step 3, the defensive clamp (R165): sign by `raw < +0.0`, magnitude limited, sign reapplied. -/
def defClamp (outLimit raw : F32) : F32 :=
  let mag := if fgt (fabs raw) outLimit then outLimit else fabs raw
  if flt raw 0#32 then fneg mag else mag

/-- Step 4, remap and truncate (R168). -/
def remap (outLimit c : F32) : U16 := truncU16 (fadd c outLimit)

/-- The command a control step returns for the raw value `raw` (R157, R165, R166, R168); a draw in range
when `raw` is NaN. -/
def controlOutput (raw : F32) (s : State) : U16 :=
  if f32IsNaN raw then drawUpTo (truncU16 (fadd s.outLimit s.outLimit)) s
  else remap s.outLimit (defClamp s.outLimit raw)

/-- PID_STEP with the control law `law` (R157, R160, R161): the returned command and the new state. -/
def controlStepWith (law : LawInput → LawOutput) (m : U16) (now : U64) (s : State) : U16 × State :=
  let o := law (lawInput m s)
  (controlOutput o.raw s,
    { s with
      lastUpdate := now
      integral := o.integral
      prevMeas := o.prevMeas
      draws := if f32IsNaN o.raw then s.draws + 1 else s.draws })

/-- PID_STEP with the parameter `PidLaw` at its default instantiation (R157, R163). -/
def controlStep (m : U16) (now : U64) (s : State) : U16 × State := controlStepWith defaultLaw m now s

/-! ## The operations -/

/-- PID_NEW (R151). -/
def execPidNew (s : State) : Result := whenLive s <| .next (newController s)

/-- PID_RESTORE (R152). -/
def execPidRestore (s : State) : Result := whenLive s <| .next (restoreController s)

/-- PID_PERSIST (R153): NVS_WRITE_RECORD of the gains and the interval in use, its next atomic step. -/
def execPidPersist (s : State) : Result := whenLive s <| writeRecordStep (currentRecord s) s

/-- PID_NEEDS_CONTROL (R154). -/
def execPidNeedsControl (now : U64) (s : State) : Result :=
  whenLive s <| .next { s with ret := .flag (needsControl now s) }

/-- PID_SET_SETPOINT (R155). -/
def execPidSetSetpoint (v : F32) (s : State) : Result := whenLive s <| .next (storeSetpoint v s)

/-- PID_GET_SETPOINT (R156). -/
def execPidGetSetpoint (s : State) : Result := whenLive s <| .next { s with ret := .setpoint s.setpoint }

/-- PID_STEP (R157). -/
def execPidStep (m : U16) (now : U64) (s : State) : Result :=
  whenLive s <| .next { (controlStep m now s).2 with ret := .output (controlStep m now s).1 }

end Sys2Proof.Machine
end

