-- ==== Sys2Proof/Machine/Reset.lean ====
section
/-! DEFINITION. The reset sequence (70_reset_and_hazards R290, R291). -/

namespace Sys2Proof.Machine

/-- The lines of R291 before PID_NEW. The registers R291 leaves unspecified take free values; the sector
is not touched. -/
def clearForReset (s : State) : State :=
  { s with
    q := []
    meas := Config.resetMeas s.draws
    op := Config.resetOp s.draws
    pl := ⟨Config.resetPl s.draws 0, Config.resetPl s.draws 1, Config.resetPl s.draws 2,
      Config.resetPl s.draws 3⟩
    plc := 0
    rsi := 0
    pwmPeriod := Config.resetPwmPeriod s.draws
    pwmWidth := Config.resetPwmWidth s.draws
    hvEnabled := false
    indHazard := Config.resetIndHazard s.draws
    indSafe := Config.resetIndSafe s.draws
    ds := .waitOpcode
    mlp := .p0Local
    faulted := false
    faultCause := .none
    nvsBusy := .idle
    draws := s.draws + 1
    blinkNext := none
    ret := .none }

/-- RESET (R291): one atomic step, from any state, the Faulted one included. -/
def execReset (s : State) : Result := .next (newController (emit (.setHv false) (clearForReset s)))

end Sys2Proof.Machine
end

