-- ==== Sys2Proof/Machine/Store.lean ====
section
/-! DEFINITION. The Non-Volatile Store (41_nonvolatile_store): NVS_ERASE, NVS_PROGRAM, NVS_READ_RECORD
and NVS_WRITE_RECORD. -/

namespace Sys2Proof.Machine

/-- NVS_ERASE (R131). -/
def execNvsErase (s : State) : Result := whenLive s <| .next (eraseSector s)

/-- NVS_PROGRAM (R132). -/
def execNvsProgram (w : RecordWords) (s : State) : Result := whenLive s <| programSector w s

/-- NVS_READ_RECORD (R133). -/
def execNvsReadRecord (s : State) : Result := whenLive s <| .next { s with ret := .record (readRecord s.nvs) }

/-- NVS_WRITE_RECORD (R134): its next atomic step, the erase and then the program (20_memory R61). -/
def execNvsWriteRecord (r : Record) (s : State) : Result := whenLive s <| writeRecordStep r s

end Sys2Proof.Machine
end

