-- ==== Sys2Proof/Machine/Supervisor.lean ====
section
/-! DEFINITION. The Safety Supervisor and the local requests (44_supervisor_main_loop R231, R240). A
local request is taken in phase P0 only, while not faulted and while no persist is under way (R234, 93
U14); an offer that is not taken is no event and changes nothing. -/

namespace Sys2Proof.Machine

/-- SUP_EVAL (R231): both indicators are driven, hazard first. -/
def execSupEval (s : State) : Result :=
  whenLive s <| .next
    (emit (.setIndicator .safe (!danger s))
      (emit (.setIndicator .hazard (danger s)) { s with indHazard := danger s, indSafe := !danger s }))

/-- ML stands in phase P0. -/
def inLocalPhase (s : State) : Bool := s.mlp == .p0Local

/-- A request that is one step: taken in P0, after which ML goes to P1 (R234). -/
def takeRequest (s : State) (k : State → State) : Result :=
  whenLive s <|
    if inLocalPhase s && s.nvsBusy == .idle then .next { k s with mlp := .p1Sample } else .next s

/-- LOP_SET_SETPOINT (R240). -/
def execLopSetSetpoint (v : F32) (s : State) : Result := takeRequest s (storeSetpoint v)

/-- LOP_GET_SETPOINT (R240). -/
def execLopGetSetpoint (s : State) : Result := takeRequest s fun s => emit (.lopResult s.setpoint) s

/-- LOP_PERSIST (R240): the next atomic step of PID_PERSIST; after the program step ML goes to P1. -/
def execLopPersist (s : State) : Result :=
  whenLive s <|
    if inLocalPhase s then
      andThen (writeRecordStep (currentRecord s) s) fun t =>
        match t.nvsBusy with
        | .idle => .next { t with mlp := .p1Sample }
        | .erasedPendingProgram => .next t
    else .next s

end Sys2Proof.Machine
end

