-- ==== Sys2Proof/Machine/Transport.lean ====
section
/-! DEFINITION. The Transport Queue (40_transport_queue): Q_TRY_PUSH, Q_POP_BLOCKING, Q_HAS_DATA and
RX_EVENT. -/

namespace Sys2Proof.Machine

/-- Q_TRY_PUSH (R111): `OK` with the byte appended, or `FULL` with the queue as it was. -/
def execQTryPush (b : Byte) (s : State) : Result :=
  whenLive s <|
    match qPush b s with
    | some t => .next { t with ret := .ok }
    | none => .next { s with ret := .full }

/-- Q_POP_BLOCKING (R112): the oldest byte; while the queue is empty ML is held and nothing happens. -/
def execQPopBlocking (s : State) : Result :=
  whenLive s <|
    match qPop s with
    | some (b, t) => .next { t with ret := .byte b }
    | none => .next s

/-- Q_HAS_DATA (R113). -/
def execQHasData (s : State) : Result := whenLive s <| .next { s with ret := .flag (hasData s) }

/-- RX_EVENT (R114): the whole receive event is one step; a full queue is fatal and the byte is not
stored. Ignored while faulted (R118). -/
def execRxEvent (b : Byte) (s : State) : Result :=
  whenLive s <|
    match qPush b s with
    | some t => .next t
    | none => raiseFatal .queueOverflow s

end Sys2Proof.Machine
end

