-- ==== Sys2Proof/Machine/Dispatch.lean ====
section
/-! DEFINITION. The meaning of every instruction: its next atomic step in a state. -/

namespace Sys2Proof.Machine

def exec (i : Instr) (s : State) : Host.Outcome State Fault Refusal :=
  match i with
  -- The commands of the serial protocol (43_command_dispatcher)
  | .hvEnable en => Sys2Proof.Machine.execHvEnable en s
  | .getMeas => Sys2Proof.Machine.execGetMeas s
  | .setPwm period width => Sys2Proof.Machine.execSetPwm period width s
  | .firePulse duration => Sys2Proof.Machine.execFirePulse duration s
  | .undefined op => Sys2Proof.Machine.execUndefined op s
  -- The Transport Queue (40_transport_queue)
  | .qTryPush b => Sys2Proof.Machine.execQTryPush b s
  | .qPopBlocking => Sys2Proof.Machine.execQPopBlocking s
  | .qHasData => Sys2Proof.Machine.execQHasData s
  | .rxEvent b => Sys2Proof.Machine.execRxEvent b s
  -- The Non-Volatile Store (41_nonvolatile_store)
  | .nvsErase => Sys2Proof.Machine.execNvsErase s
  | .nvsProgram w => Sys2Proof.Machine.execNvsProgram w s
  | .nvsReadRecord => Sys2Proof.Machine.execNvsReadRecord s
  | .nvsWriteRecord r => Sys2Proof.Machine.execNvsWriteRecord r s
  -- The PID Controller Wrapper (42_pid_controller)
  | .pidNew => Sys2Proof.Machine.execPidNew s
  | .pidRestore => Sys2Proof.Machine.execPidRestore s
  | .pidPersist => Sys2Proof.Machine.execPidPersist s
  | .pidNeedsControl now => Sys2Proof.Machine.execPidNeedsControl now s
  | .pidSetSetpoint v => Sys2Proof.Machine.execPidSetSetpoint v s
  | .pidGetSetpoint => Sys2Proof.Machine.execPidGetSetpoint s
  | .pidStep m now => Sys2Proof.Machine.execPidStep m now s
  -- The Safety Supervisor, the local requests, the reset sequence (44, 70)
  | .supEval => Sys2Proof.Machine.execSupEval s
  | .lopSetSetpoint v => Sys2Proof.Machine.execLopSetSetpoint v s
  | .lopGetSetpoint => Sys2Proof.Machine.execLopGetSetpoint s
  | .lopPersist => Sys2Proof.Machine.execLopPersist s
  | .reset => Sys2Proof.Machine.execReset s

end Sys2Proof.Machine
end

