-- ==== Sys2Proof/Machine/Sequencer.lean ====
section
/-! DEFINITION. The main-loop sequencer and the choice of who moves (44_supervisor_main_loop R233 to
R238, 43_command_dispatcher R191 to R195, 20_memory R65, R66). Each definition is one atomic step of ML
or what selects it. -/

namespace Sys2Proof.Machine

/-! ## The phases -/

/-- P0 (R234): the program step of a persist under way, else the request offered, else on to P1. -/
def localPhase (s : State) : Result :=
  match s.nvsBusy with
  | .erasedPendingProgram => exec .lopPersist s
  | .idle =>
    match s.ports.lop with
    | none => .next { s with mlp := .p1Sample }
    | some (.setSetpoint v) => exec (.lopSetSetpoint v) s
    | some .getSetpoint => exec .lopGetSetpoint s
    | some .persist => exec .lopPersist s

/-- P1 (R235): one read of the measurement port. -/
def samplePhase (s : State) : Result := .next { s with meas := s.ports.adc, mlp := .p2Control }

/-- P2 (R236): one timer value for the test and the step. -/
def controlPhase (s : State) : Result :=
  if needsControl s.ports.now s then
    let r := controlStep s.meas s.ports.now s
    .next { emit (.ctlOut r.1) r.2 with mlp := .p3Dispatch }
  else .next { s with mlp := .p3Dispatch }

/-- FETCH_OPCODE once the byte is popped (43_command R192): an undefined opcode runs UNDEFINED. -/
def fetchOpcode (b : Byte) (s : State) : Result :=
  if definedOpcode b then
    .next { s with op := b, plc := 0, ds := if npl b = 0 then .execute else .readPayload }
  else exec (.undefined b) s

/-- READ_PAYLOAD_BYTE once the byte is popped (R193). -/
def payloadByte (b : Byte) (s : State) : Result :=
  .next
    { s with
      pl := s.pl.set s.plc b
      plc := s.plc + 1
      ds := if s.plc + 1 = npl s.op then .execute else .readPayload }

/-- P3 (R191 to R195, R237): the peek and the opcode fetch, a payload byte (held while the queue is
empty), or the next step of the command in the latches. -/
def dispatchPhase (s : State) : Result :=
  match s.ds with
  | .waitOpcode =>
    match qPop s with
    | none => .next { s with mlp := .p4Supervise }
    | some (b, t) => fetchOpcode b t
  | .readPayload =>
    match qPop s with
    | none => .next s
    | some (b, t) => payloadByte b t
  | .execute => exec (latchedInstr s) s
  | .respond => exec (latchedInstr s) s

/-- P4 (R238): SUP_EVAL, then the next iteration. -/
def supervisePhase (s : State) : Result :=
  andThen (exec .supEval s) fun t => .next { t with mlp := .p0Local }

/-- The next step of ML: the blink while faulted (60_exceptions R255), else the phase `mlp` names. -/
def mlStep (s : State) : Result :=
  if s.faulted then .next (blink s)
  else
    match s.mlp with
    | .p0Local => localPhase s
    | .p1Sample => samplePhase s
    | .p2Control => controlPhase s
    | .p3Dispatch => dispatchPhase s
    | .p4Supervise => supervisePhase s

/-! ## Who moves -/

/-- The environment's next choice, from the script while it lasts. -/
def nextMove (s : State) : Move :=
  match s.env with
  | m :: _ => m
  | [] => Config.envMove s.tick

/-- The state in which the chosen move is performed: the choice taken, its levels at the input ports. -/
def withMove (s : State) : State :=
  { s with
    env := s.env.tail
    ports := (nextMove s).ports
    tick := if s.env.isEmpty then s.tick + 1 else s.tick }

/-- One atomic step by the chosen mover. -/
def perform (m : Mover) (s : State) : Result :=
  match m with
  | .rx b => exec (.rxEvent b) s
  | .ml => mlStep s
  | .restart => exec .reset s
  | .powerLoss => exec .reset s

/-- One atomic step of the block. -/
def blockStep (s : State) : Result := perform (nextMove s).mover (withMove s)

/-! ## Placing an instruction -/

/-- The latches hold the frame `bytes` complete and the dispatcher is about to execute it (R194). -/
def latchFrame (bytes : List Byte) (s : State) : State :=
  { s with
    op := bytes.getD 0 0#8
    pl := ⟨bytes.getD 1 0#8, bytes.getD 2 0#8, bytes.getD 3 0#8, bytes.getD 4 0#8⟩
    plc := npl (bytes.getD 0 0#8)
    ds := .execute }

/-- An undefined opcode is judged when it is popped (R192): it stands at the head of the queue. -/
def queueOpcode (b : Byte) (s : State) : State := { s with q := b :: s.q.tail, ds := .waitOpcode }

/-- `s` with the frame `bytes` where ML's next step runs it: in the latches, or at the head of the queue
for an undefined opcode; ML is in P3, not faulted, in no persist, and is the next to move. -/
def placeFrame (bytes : List Byte) (s : State) : State :=
  let t := if definedOpcode (bytes.getD 0 0#8) then latchFrame bytes s else queueOpcode (bytes.getD 0 0#8) s
  { t with
    mlp := .p3Dispatch
    faulted := false
    faultCause := .none
    nvsBusy := .idle
    env := ⟨.ml, s.ports⟩ :: s.env }

end Sys2Proof.Machine
end

