-- ==== Sys2Proof/Machine/Step.lean ====
section
/-! DEFINITION. One atomic step of the block, and the placing of an instruction where that step runs
it. -/

namespace Sys2Proof.Machine

/-- One atomic step of the block (20_memory R65). -/
def step (s : State) : Host.Outcome State Fault Refusal := blockStep s

/-- `s` with the command whose number in the opcode table is `w` (of `nbits` bits) placed where ML's next
step runs it. -/
def State.withFetchWord (s : State) (nbits w : Nat) : State := placeFrame (tableBytes nbits w) s

end Sys2Proof.Machine
end

