-- ==== Sys2Proof/Machine/RingBuffer.lean ====
section
/-! DEFINITION. The ring-buffer refinement of the queue (10_state R12, 20_memory R67, 40_transport R117):
a fixed array of `QUEUE_CAPACITY` cells, a write cursor that only RX writes and a read cursor that only
ML writes, both free-running. Each operation is its array access followed by the publication of its
cursor. -/

namespace Sys2Proof.Machine

/-- `buf`, `wr` and `rd` (R12). -/
structure RingBuffer where
  buf : List Byte
  wr : Nat
  rd : Nat
deriving DecidableEq, Repr

/-- After reset both cursors are 0 and `buf` is unspecified: any array (R12). -/
def RingBuffer.reset (buf : List Byte) : RingBuffer := ⟨buf, 0, 0⟩

/-- How many bytes are stored: `wr - rd`. -/
def RingBuffer.count (r : RingBuffer) : Nat := r.wr - r.rd

/-- The cell of a cursor. -/
def RingBuffer.cell (c : Nat) : Nat := c % Config.queueCapacity

/-- The array has `QUEUE_CAPACITY` cells, and the cursors are at most that far apart (R12, R116). -/
def RingBuffer.wf (r : RingBuffer) : Bool :=
  decide (r.buf.length = Config.queueCapacity) && decide (r.rd ≤ r.wr)
    && decide (r.wr ≤ r.rd + Config.queueCapacity)

/-- The queue a ring stands for: `q[k] = buf[(rd + k) mod QUEUE_CAPACITY]` (R12). -/
def RingBuffer.contents (r : RingBuffer) : List Byte :=
  (List.range r.count).map fun k => r.buf.getD (RingBuffer.cell (r.rd + k)) 0#8

/-- The producer decides fullness by reading `rd` (R67). -/
def RingBuffer.full (r : RingBuffer) : Bool := r.count == Config.queueCapacity

/-- A push, first part: the cell is written (R67). -/
def RingBuffer.writeCell (b : Byte) (r : RingBuffer) : RingBuffer := { r with buf := r.buf.set (RingBuffer.cell r.wr) b }

/-- A push, second part: the write cursor is published (R67). -/
def RingBuffer.publishWrite (r : RingBuffer) : RingBuffer := { r with wr := r.wr + 1 }

/-- A pop, first part: the cell is read (R67). -/
def RingBuffer.readCell (r : RingBuffer) : Byte := r.buf.getD (RingBuffer.cell r.rd) 0#8

/-- A pop, second part: the read cursor is published (R67). -/
def RingBuffer.publishRead (r : RingBuffer) : RingBuffer := { r with rd := r.rd + 1 }

/-- Q_TRY_PUSH on the ring (R117); none for `FULL`. -/
def RingBuffer.push (b : Byte) (r : RingBuffer) : Option RingBuffer :=
  if r.full then none else some (r.writeCell b).publishWrite

/-- Q_HAS_DATA on the ring (R117). -/
def RingBuffer.hasData (r : RingBuffer) : Bool := decide (0 < r.count)

/-- Q_POP_BLOCKING on the ring (R117); none while ML is held. -/
def RingBuffer.pop (r : RingBuffer) : Option (Byte × RingBuffer) :=
  if r.hasData then some (r.readCell, r.publishRead) else none

/-- The cursors may be kept modulo twice the capacity (R12). -/
def RingBuffer.cursorModulus : Nat := 2 * Config.queueCapacity

/-- The difference of two cursors kept modulo `2 * QUEUE_CAPACITY`, taken modulo that (R117). -/
def RingBuffer.cursorDistance (wr rd : Nat) : Nat := (wr + RingBuffer.cursorModulus - rd) % RingBuffer.cursorModulus

end Sys2Proof.Machine
end

