-- ==== Sys2Proof/Safety.lean ====
section
/-! DEFINITION. The terms claims about the block are made in: runs, what the host and the collaborators
can observe (00_scope R9), what it means for a run to have completed (70_reset R304) or gone wrong
(60_exceptions R256), and the invariant of the reachable states. -/

namespace Sys2Proof.Machine

/-- `n` atomic steps. -/
def stepN : Nat → State → Result
  | 0, s => .next s
  | n + 1, s => andThen (step s) (stepN n)

/-- What is observable: the output events and the content of the sector (R9). -/
def observation (s : State) : List Event × Nvs := (s.trace, s.nvs)

/-- What crossed the queue during a run. -/
structure Traffic where
  /-- The bytes the host sent, in order. -/
  sent : List Byte
  /-- The bytes ML took from the queue, in order. -/
  consumed : List Byte
deriving DecidableEq, Repr

/-- The byte the host sends in the next step, if the next step is RX's. -/
def sentNext (s : State) : List Byte :=
  match (nextMove s).mover with
  | .rx b => [b]
  | .ml => []
  | .restart => []
  | .powerLoss => []

/-- The bytes ML takes from the queue in its step from `s` to `t`. A restart empties the queue and
consumes nothing. -/
def takenNext (s t : State) : List Byte :=
  match (nextMove s).mover with
  | .ml => s.q.take (s.q.length - t.q.length)
  | .rx _ => []
  | .restart => []
  | .powerLoss => []

/-- What crosses the queue in `n` steps. -/
def traffic : Nat → State → Traffic
  | 0, _ => ⟨[], []⟩
  | n + 1, s =>
    match step s with
    | .next t => ⟨sentNext s ++ (traffic n t).sent, takenNext s t ++ (traffic n t).consumed⟩
    | .fault _ => ⟨[], []⟩
    | .refused _ => ⟨[], []⟩

/-- Nothing is under way: the conditions of R304 on the state at which the run is observed. -/
def atRest (s : State) : Bool :=
  s.ds == .waitOpcode && s.q == [] && !s.faulted && s.nvsBusy == .idle && s.mlp == .p0Local

/-- A choice of the environment that is a byte from the host. -/
def hostSends (m : Move) : Bool :=
  match m.mover with
  | .rx _ => true
  | .ml => false
  | .restart => false
  | .powerLoss => false

/-- The run of `n` steps from `s` has completed (R304): it ends at rest, and every byte the host sent, those
that wait in the queue at its start among them, has been consumed, with none still to come in the
script. -/
def completed (n : Nat) (s : State) : Bool :=
  match stepN n s with
  | .next t =>
    atRest t && s.q ++ (traffic n s).sent == (traffic n s).consumed && t.env.all fun m => !hostSends m
  | .fault _ => false
  | .refused _ => false

/-- The run has gone wrong (R256). -/
def goneWrong (s : State) : Bool := s.faulted

/-- An operation on the queue, by its producer or its consumer. -/
inductive QueueOp where
  | push (b : Byte)
  | pop
deriving DecidableEq, Repr

/-- What a sequence of queue operations did. -/
structure QueueRun where
  /-- The bytes of the pushes that returned `OK`, in order. -/
  pushed : List Byte
  /-- The bytes the pops returned, in order. -/
  popped : List Byte
  /-- The state after the last operation. -/
  final : State
deriving DecidableEq, Repr

/-- Q_TRY_PUSH and Q_POP_BLOCKING performed in the order given; a pop of an empty queue is held and
returns nothing. -/
def queueRun : List QueueOp → State → QueueRun
  | [], s => ⟨[], [], s⟩
  | .push b :: ops, s =>
    match exec (.qTryPush b) s with
    | .next t =>
      let r := queueRun ops t
      if t.ret = .ok then { r with pushed := b :: r.pushed } else r
    | .fault _ | .refused _ => ⟨[], [], s⟩
  | .pop :: ops, s =>
    match exec .qPopBlocking s with
    | .next t =>
      let r := queueRun ops t
      match hasData s, t.ret with
      | true, .byte b => { r with popped := b :: r.popped }
      | _, _ => r
    | .fault _ | .refused _ => ⟨[], [], s⟩

/-- `rlen(op)`: how long the response of a defined opcode is (43_command R195). -/
def responseLength (op : Byte) : Nat := if op = 0x02#8 then 2 else 1

/-- `r` is the value `v`, in units of 2^-(149+sh), rounded once to binary32: to nearest, ties to even,
subnormals kept, infinity on overflow (00_scope R7, 42_pid R170). -/
structure RoundedTo (r : F32) (v : Int) (sh : Nat) : Prop where
  /-- The result is a number. -/
  number : f32IsNaN r = false
  /-- The result has the sign of the value. -/
  sign : v ≠ 0 → f32Neg r = decide (v < 0)
  /-- The result is infinite from half a step above the greatest finite magnitude on. -/
  overflow : f32IsInf r = true ↔ 33554431 * 2 ^ (252 + sh) ≤ v.natAbs
  /-- No finite value is nearer. -/
  nearest : f32Finite r = true → ∀ x : F32, f32Finite x = true →
    (f32Int r * 2 ^ sh - v).natAbs ≤ (f32Int x * 2 ^ sh - v).natAbs
  /-- Of two values as near, the result is the one with an even significand. -/
  even : f32Finite r = true → ∀ x : F32, f32Finite x = true →
    (f32Int r * 2 ^ sh - v).natAbs = (f32Int x * 2 ^ sh - v).natAbs → f32Int x ≠ f32Int r →
    f32Mag r % 2 = 0

/-- What holds of every state a run from reset goes through. -/
structure State.Inv (s : State) : Prop where
  /-- The capacity is never exceeded (R11, R116). -/
  queue : s.q.length ≤ Config.queueCapacity
  /-- `plc` is a count 0 to 4 (R15). -/
  payloadCount : s.plc ≤ 4
  /-- `rsi` is a count 0 to 2 (R15). -/
  responseCount : s.rsi ≤ 2
  /-- The four limits are hardwired to `LIMIT` (R27). -/
  limits : s.pLimit = Config.limit ∧ s.iLimit = Config.limit ∧ s.dLimit = Config.limit
    ∧ s.outLimit = Config.limit
  /-- The sector is in canonical form. -/
  sector : Memory.wf s.nvs = true
  /-- Between the erase and the program of a persist ML stands in P0 and the sector is erased (R36). -/
  persist : s.nvsBusy = .erasedPendingProgram → s.mlp = .p0Local ∧ s.nvs = []
  /-- A transaction lies inside P3 (R201). -/
  transaction : s.ds ≠ .waitOpcode → s.mlp = .p3Dispatch
  /-- `fault_cause` holds a cause exactly while `faulted` is set (R22, R254). -/
  cause : s.faulted = true ↔ s.faultCause ≠ .none
  /-- In READ_PAYLOAD a payload byte is still missing (R193). -/
  payload : s.ds = .readPayload → s.plc < npl s.op
  /-- In EXECUTE and RESPOND the frame is complete and its opcode defined (R192 to R194). -/
  frame : s.ds = .execute ∨ s.ds = .respond → definedOpcode s.op = true ∧ s.plc = npl s.op
  /-- In RESPOND a response byte is still to be sent (R195). -/
  response : s.ds = .respond → s.rsi < responseLength s.op

/-- What holds of the control law's memory: the integral term is NaN or within the limit (R163), and the
remembered sample is no NaN (R164). -/
structure State.LawInv (s : State) : Prop where
  limit : s.iLimit = Config.limit
  integral : f32IsNaN s.integral = true ∨ f32Mag s.integral ≤ f32Mag Config.limit
  prevMeas : ∀ x, s.prevMeas = some x → f32IsNaN x = false

end Sys2Proof.Machine
end

