-- ==== Sys2Proof/Certificates/Slice0/Obligations.lean ====
section
/-! DEFINITION. The statements about the block, from the numbered rules of spec/. Each docstring names
the rule it formalises. `exec i s` is the next atomic step of instruction `i`; `step` takes the
environment's next choice and performs one atomic step. The environment's choices are the script `env` of
the state (log 1, 20). An operation that no rule enables leaves the state as it is (log 14); clauses that
say so name that entry. -/

open Sys2Proof Sys2Proof.Machine

/-! ## Encoding (30_encoding) -/

/-- R80 to R88: the frame of a well-formed command, followed by anything, decodes to that command and
leaves what followed. -/
def Obligations.DecodeInvertsEncode : Prop :=
  ∀ (i : Instr) (frame rest : List Byte), i.wellFormed = true → encode i = some frame →
    decode (frame ++ rest) = .ok (i, rest)

/-- R80 to R88, R99: what decodes is a well-formed command, and the bytes taken are exactly its frame. -/
def Obligations.EncodeInvertsDecode : Prop :=
  ∀ (i : Instr) (bytes rest : List Byte), decode bytes = .ok (i, rest) →
    i.wellFormed = true ∧ ∃ frame, encode i = some frame ∧ bytes = frame ++ rest

/-- R87: the length of a frame is a function of byte 0 alone: whatever the payload bytes are, decoding
takes the opcode and `npl` bytes, with the lengths 2, 1, 5, 3 and 1; with fewer bytes there is no frame
(R193). -/
def Obligations.FrameLengthFromOpcode : Prop :=
  (∀ (op : Byte) (after : List Byte), npl op ≤ after.length →
    ∃ i, decode (op :: after) = .ok (i, after.drop (npl op)))
  ∧ (∀ (op : Byte) (after : List Byte), after.length < npl op →
    decode (op :: after) = .error (.truncated op after.length))
  ∧ (∀ op, frameLength op = npl op + 1)
  ∧ frameLength 0x01#8 = 2 ∧ frameLength 0x02#8 = 1 ∧ frameLength 0x03#8 = 5 ∧ frameLength 0x04#8 = 3
  ∧ (∀ op : Byte, op.toNat = 0 ∨ 5 ≤ op.toNat → frameLength op = 1)

/-- R82 to R86: frames written out from the spec's encodings decode to the commands they stand for. -/
def Obligations.FramesOfTheSpecDecode : Prop :=
  decode [0x01, 0x01] = .ok (.hvEnable 1, [])
  ∧ decode [0x02, 0x07] = .ok (.getMeas, [0x07])
  ∧ decode [0x03, 0x00, 0x64, 0x00, 0x05] = .ok (.setPwm 100 5, [])
  ∧ decode [0x03, 0x01, 0x00, 0x01, 0x01] = .ok (.setPwm 256 257, [])
  ∧ decode [0x04, 0x01, 0xF4] = .ok (.firePulse 500, [])
  ∧ decode [0x05, 0x01, 0x02] = .ok (.undefined 5, [0x01, 0x02])

/-! ## The commands (43_command_dispatcher) -/

/-- R196, R89: HV_ENABLE with an enable byte of 0 or 1 writes `hv_enabled`, emits `SetHv` and goes to
RESPOND. That 1 enables and 0 disables is a choice: decision D23 of R89, which the spec takes from general
knowledge (log 24, PRESUMED). The spec marks its own decisions D23, D24, D26. -/
def Obligations.HvEnableExecutes : Prop :=
  ∀ (en : Byte) (s : State), s.faulted = false → s.ds = .execute → en.toNat ≤ 1 →
    exec (.hvEnable en) s = .next
      { s with
        hvEnabled := decide (en.toNat = 1)
        trace := s.trace ++ [.setHv (decide (en.toNat = 1))]
        rsi := 0
        ds := .respond }

/-- R253: an enable byte of 2 to 255 is fatal before any effect of the command. -/
def Obligations.HvEnableBadValueFatal : Prop :=
  ∀ (en : Byte) (s : State), s.faulted = false → s.ds = .execute → 2 ≤ en.toNat →
    exec (.hvEnable en) s = .next { s with faulted := true, faultCause := .badEnableValue }

/-- R197, R199: the execute part of GET_MEAS does nothing but go to RESPOND; that of FIRE_PULSE emits
the duration unchanged, whatever it is and whatever `hv_enabled` is. The spec marks its own decisions
D24, D28, D29. -/
def Obligations.GetMeasAndFirePulseExecute : Prop :=
  ∀ (duration : U16) (s : State), s.faulted = false → s.ds = .execute →
    exec .getMeas s = .next { s with rsi := 0, ds := .respond }
    ∧ exec (.firePulse duration) s = .next
      { s with trace := s.trace ++ [.firePulse duration], rsi := 0, ds := .respond }

/-- R198 with the check of R205: SET_PWM stores and emits accepted parameters; rejected ones change no
state but the dispatcher's. The spec marks its own decision D27. -/
def Obligations.SetPwmExecutes : Prop :=
  ∀ (period width : U16) (s : State), s.faulted = false → s.ds = .execute →
    exec (.setPwm period width) s = .next
      (if period.toNat ≠ 0 ∧ width.toNat ≤ period.toNat then
        { s with
          pwmPeriod := period
          pwmWidth := width
          trace := s.trace ++ [.setPwm period width]
          rsi := 0
          ds := .respond }
      else { s with rsi := 0, ds := .respond })

/-- R200, R252: an undefined opcode is latched and fatal; no payload is read and nothing is sent. The
spec marks its own decision D25. -/
def Obligations.UndefinedOpcodeFatal : Prop :=
  ∀ (op : Byte) (s : State), s.faulted = false →
    exec (.undefined op) s = .next
      { s with op := op, plc := 0, faulted := true, faultCause := .unknownOpcode }

/-- R195 with R90 and R91: the response bytes of each command, one a step; after the last one the
dispatcher waits for an opcode and ML goes to P4. The spec marks its own decision D24. -/
def Obligations.ResponseBytes : Prop :=
  ∀ s : State, s.faulted = false → s.ds = .respond →
    (s.rsi = 0 → ∀ en : Byte, exec (.hvEnable en) s = .next
      { s with trace := s.trace ++ [.tx 0x01#8], rsi := 1, ds := .waitOpcode, mlp := .p4Supervise })
    ∧ (s.rsi = 0 → exec .getMeas s = .next
      { s with trace := s.trace ++ [.tx (s.meas.extractLsb' 8 8)], rsi := 1 })
    ∧ (s.rsi = 1 → exec .getMeas s = .next
      { s with
        trace := s.trace ++ [.tx (s.meas.extractLsb' 0 8)]
        rsi := 2
        ds := .waitOpcode
        mlp := .p4Supervise })
    ∧ (s.rsi = 0 → ∀ period width : U16, exec (.setPwm period width) s = .next
      { s with
        trace := s.trace ++
          [.tx (if period.toNat ≠ 0 ∧ width.toNat ≤ period.toNat then 0x03#8 else 0xFC#8)]
        rsi := 1
        ds := .waitOpcode
        mlp := .p4Supervise })
    ∧ (s.rsi = 0 → ∀ duration : U16, exec (.firePulse duration) s = .next
      { s with trace := s.trace ++ [.tx 0x04#8], rsi := 1, ds := .waitOpcode, mlp := .p4Supervise })

/-! ## The Transport Queue (40_transport_queue) -/

/-- R111 to R113: a push appends the byte and returns `OK`, or returns `FULL` and changes nothing; a pop
returns the oldest byte and takes it out, and while the queue is empty it is held and nothing happens
(log 14); `has_data()` is true iff at least one unpopped element exists. -/
def Obligations.QueueOperations : Prop :=
  ∀ (b : Byte) (s : State), s.faulted = false →
    exec (.qTryPush b) s = .next
      (if s.q.length = Config.queueCapacity then { s with ret := .full }
      else { s with q := s.q ++ [b], ret := .ok })
    ∧ (∀ c rest, s.q = c :: rest → exec .qPopBlocking s = .next { s with q := rest, ret := .byte c })
    ∧ (s.q = [] → exec .qPopBlocking s = .next s)
    ∧ exec .qHasData s = .next { s with ret := .flag (decide (0 < s.q.length)) }

/-- R114, R257: the receive event stores the byte; with a full queue it is fatal and stores nothing. The
spec marks its own decision D7. -/
def Obligations.RxEventResult : Prop :=
  ∀ (b : Byte) (s : State), s.faulted = false →
    (s.q.length < Config.queueCapacity → exec (.rxEvent b) s = .next { s with q := s.q ++ [b] })
    ∧ (s.q.length = Config.queueCapacity →
      exec (.rxEvent b) s = .next { s with faulted := true, faultCause := .queueOverflow })

/-- R115, the FIFO law: from an empty queue, the bytes popped so far and then the bytes still in the
queue are exactly the bytes successfully pushed, in the order pushed. The same of whole runs: in a run of RX
and ML that does not end in the Faulted state, the bytes queued at its start and the bytes the host sent in
it are exactly the bytes ML consumed and then the bytes still queued. The spec marks its own inference in
R115. -/
def Obligations.FifoLaw : Prop :=
  (∀ (ops : List QueueOp) (s : State), s.faulted = false → s.q = [] →
    (queueRun ops s).pushed = (queueRun ops s).popped ++ (queueRun ops s).final.q)
  ∧ ∀ (n : Nat) (s t : State), n ≤ s.env.length →
    (∀ m ∈ s.env, m.mover = .ml ∨ ∃ b, m.mover = .rx b) → stepN n s = .next t →
    t.faulted = false → s.q ++ (traffic n s).sent = (traffic n s).consumed ++ t.q

/-- R116, the capacity law: no step takes the queue above its capacity, of 128 bytes; the push of one
more is the overflow. The spec marks its own decision D4. -/
def Obligations.CapacityNeverExceeded : Prop :=
  (∀ s t : State, s.q.length ≤ Config.queueCapacity → step s = .next t →
    t.q.length ≤ Config.queueCapacity)
  ∧ State.reset.q.length ≤ Config.queueCapacity
  ∧ Config.queueCapacity = 128
  ∧ ∀ (b : Byte) (s : State), s.faulted = false → s.q.length = 128 →
    exec (.rxEvent b) s = .next { s with faulted := true, faultCause := .queueOverflow }

/-- R12, R117: a ring after reset, both cursors 0 on any array of `QUEUE_CAPACITY` cells, is well-formed
and stands for the empty queue; a well-formed ring does on the queue it stands for what the queue operations
do, and stays well-formed. The spec marks its own decision D5. -/
def Obligations.RingRefinesQueue : Prop :=
  (∀ buf : List Byte, buf.length = Config.queueCapacity →
    (RingBuffer.reset buf).wr = 0 ∧ (RingBuffer.reset buf).rd = 0 ∧ (RingBuffer.reset buf).buf = buf
    ∧ (RingBuffer.reset buf).wf = true ∧ (RingBuffer.reset buf).contents = [])
  ∧ ∀ (r : RingBuffer) (s : State), r.wf = true → s.q = r.contents →
    (∀ b : Byte, (qPush b s).map (fun t => t.q) = (r.push b).map RingBuffer.contents)
    ∧ ((qPop s).map (fun p => (p.1, p.2.q)) = r.pop.map (fun p => (p.1, p.2.contents)))
    ∧ hasData s = r.hasData
    ∧ (∀ b r', r.push b = some r' → r'.wf = true)
    ∧ ∀ b r', r.pop = some (b, r') → r'.wf = true

/-- R67, R12, R117: writing the cell of a push is invisible to the consumer until the write cursor is
published; cursors kept modulo twice the capacity give the same count and the same cells. The spec marks
its own decision D5. -/
def Obligations.RingCursorOrder : Prop :=
  ∀ (r : RingBuffer) (b : Byte), r.wf = true →
    (r.full = false →
      (r.writeCell b).contents = r.contents
      ∧ (r.writeCell b).publishWrite.contents = r.contents ++ [b])
    ∧ RingBuffer.cursorDistance (r.wr % RingBuffer.cursorModulus) (r.rd % RingBuffer.cursorModulus) = r.count
    ∧ ∀ c, RingBuffer.cell (c % RingBuffer.cursorModulus) = RingBuffer.cell c

/-! ## The Non-Volatile Store (41_nonvolatile_store) -/

/-- R131: the erase leaves every word at `ERASED_WORD` and changes nothing else. The spec marks its own
inference in R131. The spec marks its own decision D9. -/
def Obligations.EraseResult : Prop :=
  ∀ s : State, s.faulted = false →
    ∃ n, exec .nvsErase s = .next { s with nvs := n, trace := s.trace ++ [.erase] }
      ∧ ∀ i, nvsRead n i = Config.erasedWord

/-- R132, 93 U8: on an erased sector the program pass writes words 0 to 5 and no other word; on a sector
with a word that is not erased the model refuses it (log 18). The spec marks its own decision D11. -/
def Obligations.ProgramResult : Prop :=
  ∀ (w : RecordWords) (s : State), s.faulted = false →
    (s.nvs = [] →
      ∃ n, exec (.nvsProgram w) s = .next { s with nvs := n, trace := s.trace ++ [.program w] }
        ∧ nvsRead n 0 = w.w0 ∧ nvsRead n 1 = w.w1 ∧ nvsRead n 2 = w.w2
        ∧ nvsRead n 3 = w.w3 ∧ nvsRead n 4 = w.w4 ∧ nvsRead n 5 = w.w5
        ∧ ∀ i, 6 ≤ i → nvsRead n i = Config.erasedWord)
    ∧ ∀ i, nvsRead s.nvs i ≠ Config.erasedWord →
      exec (.nvsProgram w) s = .refused .programNotErased

/-- R133, R95: `NONE` for any sector whose word 0 differs from the magic, whatever the other words;
otherwise words 1 to 5 as found. -/
def Obligations.ReadRecordResult : Prop :=
  ∀ s : State, s.faulted = false →
    (nvsRead s.nvs 0 ≠ 0x444E4A4E#32 →
      exec .nvsReadRecord s = .next { s with ret := .record none })
    ∧ (nvsRead s.nvs 0 = 0x444E4A4E#32 →
      ∃ interval : U64,
        interval.toNat = (nvsRead s.nvs 4).toNat * 4294967296 + (nvsRead s.nvs 5).toNat
        ∧ exec .nvsReadRecord s = .next
          { s with
            ret := .record (some ⟨nvsRead s.nvs 1, nvsRead s.nvs 2, nvsRead s.nvs 3, interval⟩) })

/-- R134, R61: a record is written by two atomic steps, the erase and the program of its six words. The
spec marks its own decision D11.
A program step on a sector that is not erased is refused (log 18). -/
def Obligations.WriteRecordSteps : Prop :=
  ∀ (r : Record) (s : State), s.faulted = false →
    (s.nvsBusy = .idle →
      exec (.nvsWriteRecord r) s = .next
        { s with nvs := [], trace := s.trace ++ [.erase], nvsBusy := .erasedPendingProgram })
    ∧ (s.nvsBusy = .erasedPendingProgram → s.nvs = [] →
      ∃ n w, exec (.nvsWriteRecord r) s = .next
          { s with nvs := n, trace := s.trace ++ [.program w], nvsBusy := .idle }
        ∧ w.w0 = 0x444E4A4E#32 ∧ w.w1 = r.kpBits ∧ w.w2 = r.kiBits ∧ w.w3 = r.kdBits
        ∧ w.w4 = r.interval.extractLsb' 32 32 ∧ w.w5 = r.interval.extractLsb' 0 32
        ∧ nvsRead n 0 = w.w0 ∧ nvsRead n 1 = w.w1 ∧ nvsRead n 2 = w.w2
        ∧ nvsRead n 3 = w.w3 ∧ nvsRead n 4 = w.w4 ∧ nvsRead n 5 = w.w5
        ∧ ∀ i, 6 ≤ i → nvsRead n i = Config.erasedWord)
    ∧ ∀ i, s.nvsBusy = .erasedPendingProgram → nvsRead s.nvs i ≠ Config.erasedWord →
      exec (.nvsWriteRecord r) s = .refused .programNotErased

/-- R135, the round-trip law: a record written and then read, at any later time at which every word of
the sector still reads as the write left it, is the same record, every bit. The spec marks its own
inference in R135. -/
def Obligations.RecordRoundTrip : Prop :=
  ∀ (r : Record) (s : State), s.faulted = false → s.nvsBusy = .idle →
    ∃ t u, exec (.nvsWriteRecord r) s = .next t ∧ exec (.nvsWriteRecord r) t = .next u
      ∧ u.nvsBusy = .idle
      ∧ ∀ v : State, v.faulted = false → (∀ a, nvsRead v.nvs a = nvsRead u.nvs a) →
        exec .nvsReadRecord v = .next { v with ret := .record (some r) }

/-- R136: a power loss between the erase and the program of a persist leaves the sector erased and the
controller at its defaults; one after the program leaves the new record, which is loaded. That a power loss
and the reset of the next power-up are one step is the model's inference (log 19, DEDUCED). The spec marks
its own decision D38. -/
def Obligations.PowerLossDuringPersist : Prop :=
  ∀ (s : State) (p1 p2 p3 : Ports) (rest : List Move),
    s.faulted = false → s.mlp = .p0Local → s.nvsBusy = .idle → p1.lop = some .persist →
    (s.env = ⟨.ml, p1⟩ :: ⟨.powerLoss, p2⟩ :: rest →
      ∃ t, stepN 2 s = .next t ∧ (∀ i, nvsRead t.nvs i = Config.erasedWord)
        ∧ t.kp = Config.kpDefault ∧ t.ki = Config.kiDefault ∧ t.kd = Config.kdDefault
        ∧ t.interval = Config.ctrlIntervalDefault ∧ t.nvsBusy = .idle)
    ∧ (s.env = ⟨.ml, p1⟩ :: ⟨.ml, p2⟩ :: ⟨.powerLoss, p3⟩ :: rest →
      ∃ t, stepN 3 s = .next t ∧ t.kp = s.kp ∧ t.ki = s.ki ∧ t.kd = s.kd
        ∧ t.interval = s.interval ∧ readRecord t.nvs = some ⟨s.kp, s.ki, s.kd, s.interval⟩)

/-- The model's representation of 20_memory R52, R53 (log 5, 6): every instruction that answers a next
state keeps the sector in its canonical form. The spec marks its own decisions D1, D12. -/
def Obligations.SectorFormKept : Prop :=
  ∀ (i : Instr) (s t : State), Memory.wf s.nvs = true → exec i s = .next t → Memory.wf t.nvs = true

/-- R53, R131, R132, R204: only the erase, the program and what is made of them write the sector; every
other instruction leaves every word as it was. The spec marks its own inference in R131, R204. The spec
marks its own decisions D9, D11, D12. -/
def Obligations.SectorFrame : Prop :=
  ∀ (i : Instr) (s t : State), exec i s = .next t →
    i ≠ .nvsErase → (∀ w, i ≠ .nvsProgram w) → (∀ r, i ≠ .nvsWriteRecord r) →
    i ≠ .pidPersist → i ≠ .lopPersist → ∀ a, nvsRead t.nvs a = nvsRead s.nvs a

/-! ## The PID Controller Wrapper (42_pid_controller) -/

/-- R151, R152: construction sets the defaults and the limits, then takes the gains and the interval
from a valid record. The spec marks its own decision D22. -/
def Obligations.PidNewResult : Prop :=
  ∀ s : State, s.faulted = false →
    ∃ interval : U64,
      interval.toNat = (nvsRead s.nvs 4).toNat * 4294967296 + (nvsRead s.nvs 5).toNat
      ∧ exec .pidNew s = .next
        { s with
          kp := if nvsRead s.nvs 0 = 0x444E4A4E#32 then nvsRead s.nvs 1 else Config.kpDefault
          ki := if nvsRead s.nvs 0 = 0x444E4A4E#32 then nvsRead s.nvs 2 else Config.kiDefault
          kd := if nvsRead s.nvs 0 = 0x444E4A4E#32 then nvsRead s.nvs 3 else Config.kdDefault
          pLimit := 0x43480000#32
          iLimit := 0x43480000#32
          dLimit := 0x43480000#32
          outLimit := 0x43480000#32
          setpoint := Config.setpointDefault
          integral := 0#32
          prevMeas := none
          interval :=
            if nvsRead s.nvs 0 = 0x444E4A4E#32 then interval else Config.ctrlIntervalDefault
          lastUpdate := 0#64 }

/-- R152: restore writes the three gains and the interval from a valid record, or nothing at all. The
spec marks its own decision D21. -/
def Obligations.PidRestoreResult : Prop :=
  ∀ s : State, s.faulted = false →
    (nvsRead s.nvs 0 ≠ 0x444E4A4E#32 → exec .pidRestore s = .next s)
    ∧ (nvsRead s.nvs 0 = 0x444E4A4E#32 →
      ∃ interval : U64,
        interval.toNat = (nvsRead s.nvs 4).toNat * 4294967296 + (nvsRead s.nvs 5).toNat
        ∧ exec .pidRestore s = .next
          { s with
            kp := nvsRead s.nvs 1
            ki := nvsRead s.nvs 2
            kd := nvsRead s.nvs 3
            interval := interval })

/-- R153: persist writes the gains and the interval in use, in two steps, and changes no register of the
controller; the words above the record stay erased (R53). The spec marks its own inference in R153. The spec
marks its own decision D12.
A program step on a sector that is not erased is refused (log 18). -/
def Obligations.PidPersistSteps : Prop :=
  ∀ s : State, s.faulted = false →
    (s.nvsBusy = .idle →
      exec .pidPersist s = .next
        { s with nvs := [], trace := s.trace ++ [.erase], nvsBusy := .erasedPendingProgram })
    ∧ (s.nvsBusy = .erasedPendingProgram → s.nvs = [] →
      ∃ n w, exec .pidPersist s = .next
          { s with nvs := n, trace := s.trace ++ [.program w], nvsBusy := .idle }
        ∧ readRecord n = some ⟨s.kp, s.ki, s.kd, s.interval⟩
        ∧ w = ⟨nvsRead n 0, nvsRead n 1, nvsRead n 2, nvsRead n 3, nvsRead n 4, nvsRead n 5⟩
        ∧ ∀ i, 6 ≤ i → nvsRead n i = Config.erasedWord)
    ∧ ∀ i, s.nvsBusy = .erasedPendingProgram → nvsRead s.nvs i ≠ Config.erasedWord →
      exec .pidPersist s = .refused .programNotErased

/-- R154: true iff control is enabled and the absolute difference of the timestamps strictly exceeds the
interval; no state is changed. The spec marks its own decision D18. -/
def Obligations.NeedsControlResult : Prop :=
  ∀ (now : U64) (s : State), s.faulted = false →
    exec (.pidNeedsControl now) s = .next
      { s with
        ret := .flag (s.ports.ctlEn && decide (s.interval.toNat <
          if s.lastUpdate.toNat ≤ now.toNat then now.toNat - s.lastUpdate.toNat
          else s.lastUpdate.toNat - now.toNat)) }

/-- R155, R300, R156: a new setpoint is stored as it is and the integral term is cleared, always; the
setpoint is read back bit for bit. The spec marks its own decision D20. -/
def Obligations.SetpointOperations : Prop :=
  ∀ (v : F32) (s : State), s.faulted = false →
    exec (.pidSetSetpoint v) s = .next { s with setpoint := v, integral := 0x00000000#32 }
    ∧ exec .pidGetSetpoint s = .next { s with ret := .setpoint s.setpoint }

/-- R157, R160, R163, R165, R166, R168: the control step writes the timestamp and the law's memory; it
returns the clamped and remapped raw value, or a draw in range where the raw value is NaN (log 11). The law
is the default one, which the spec takes from general knowledge (R163, log 9, PRESUMED), its terms written
out: the error is setpoint minus measurement, and the derivative acts on the measurement. The spec marks its
own decisions D14, D16, D17. -/
def Obligations.PidStepResult : Prop :=
  ∀ (m : U16) (now : U64) (s : State), s.faulted = false →
    ∃ (x error p integral d raw : F32) (out : U16) (draws : Nat),
      x = f32OfU16 m
      ∧ error = fsub s.setpoint x
      ∧ p = lim s.pLimit (fmul error s.kp)
      ∧ integral = lim s.iLimit (fadd s.integral (fmul error s.ki))
      ∧ (s.prevMeas = none → d = lim s.dLimit (fmul (fneg 0x00000000#32) s.kd))
      ∧ (∀ y, s.prevMeas = some y → d = lim s.dLimit (fmul (fneg (fsub x y)) s.kd))
      ∧ raw = lim s.outLimit (fadd (fadd p integral) d)
      ∧ exec (.pidStep m now) s = .next
        { s with
          lastUpdate := now
          integral := integral
          prevMeas := some x
          draws := draws
          ret := .output out }
      ∧ (f32IsNaN raw = false →
        draws = s.draws ∧ out = truncU16 (fadd (defClamp s.outLimit raw) s.outLimit))
      ∧ (f32IsNaN raw = true → out.toNat ≤ (truncU16 (fadd s.outLimit s.outLimit)).toNat)

/-- R165: the defensive clamp brings every value but NaN, infinities included, into the limits, leaves a
value within them as it is, and makes either zero `+0.0`. The spec marks its own decision D16. -/
def Obligations.DefensiveClampBounds : Prop :=
  ∀ raw : F32, f32IsNaN raw = false →
    f32IsNaN (defClamp Config.limit raw) = false
    ∧ fgt (defClamp Config.limit raw) Config.limit = false
    ∧ flt (defClamp Config.limit raw) (fneg Config.limit) = false
    ∧ (fgt raw Config.limit = true → defClamp Config.limit raw = Config.limit)
    ∧ (flt raw (fneg Config.limit) = true → defClamp Config.limit raw = fneg Config.limit)
    ∧ (fgt raw Config.limit = false → flt raw (fneg Config.limit) = false → f32Mag raw ≠ 0 →
      defClamp Config.limit raw = raw)
    ∧ (f32Mag raw = 0 → defClamp Config.limit raw = 0#32)

/-- R169, the range law: whatever the control law, the gains, the measurement and the time, the result
of a control step is 0 to 400; so is what PID_STEP returns. The spec marks its own inference in R169. -/
def Obligations.ControlOutputRange : Prop :=
  ∀ (law : LawInput → LawOutput) (m : U16) (now : U64) (s : State), s.outLimit = Config.limit →
    (controlStepWith law m now s).1.toNat ≤ 400
    ∧ (s.faulted = false →
      ∃ t out, exec (.pidStep m now) s = .next t ∧ t.ret = .output out ∧ out.toNat ≤ 400)

/-- R162, R163, the limiter and the default law (log 9): the limiter gives the limit above it, its negation
below that, and any other value as it is; for a limit that is a number and not negative its result lies
between the two unless the value is NaN. So the law's raw value and its integral term are NaN or within the
limit. The spec marks its own decision D14. -/
def Obligations.DefaultLawBounded : Prop :=
  (∀ l v : F32,
    (fgt v l = true → lim l v = l)
    ∧ (fgt v l = false → flt v (fneg l) = true → lim l v = fneg l)
    ∧ (fgt v l = false → flt v (fneg l) = false → lim l v = v)
    ∧ (f32IsNaN l = false → f32Neg l = false → f32IsNaN v = false →
      f32IsNaN (lim l v) = false ∧ fgt (lim l v) l = false ∧ flt (lim l v) (fneg l) = false))
  ∧ ∀ i : LawInput, i.outLimit = Config.limit → i.iLimit = Config.limit →
    (f32IsNaN (defaultLaw i).raw = true ∨ f32Mag (defaultLaw i).raw ≤ f32Mag Config.limit)
    ∧ (f32IsNaN (defaultLaw i).integral = true
      ∨ f32Mag (defaultLaw i).integral ≤ f32Mag Config.limit)

/-- R164, the default law (log 9): a NaN in the integral term stays there over a control step, and makes
the raw value NaN; PID_SET_SETPOINT clears it. The spec marks its own inference in R164. The spec marks
its own decision D20. -/
def Obligations.NanIntegralSticks : Prop :=
  ∀ (m : U16) (now : U64) (v : F32) (s : State), s.faulted = false → f32IsNaN s.integral = true →
    f32IsNaN (defaultLaw (lawInput m s)).raw = true
    ∧ (∃ t, exec (.pidStep m now) s = .next t ∧ f32IsNaN t.integral = true)
    ∧ ∃ t, exec (.pidSetSetpoint v) s = .next t ∧ t.integral = 0#32

/-! ## The Safety Supervisor and the local requests (44_supervisor_main_loop) -/

/-- R231, R232, R238: both indicators are driven, hazard first, from `meas >= 67 OR hv_enabled`; exactly
one is on; nothing else changes. Phase P4 does this and then ML stands in P0, in one step (log 17, DEDUCED);
hazard before safe is the spec's own decision D43 (log 29, DESIGN CHOICE). The spec marks its own inference
in R232. -/
def Obligations.SupEvalResult : Prop :=
  ∀ s : State, s.faulted = false →
    ∃ d : Bool, (d = true ↔ 67 ≤ s.meas.toNat ∨ s.hvEnabled = true)
      ∧ exec .supEval s = .next
        { s with
          indHazard := d
          indSafe := !d
          trace := s.trace ++ [.setIndicator .hazard d, .setIndicator .safe (!d)] }
      ∧ ∀ (p : Ports) (later : List Move), s.env = ⟨.ml, p⟩ :: later → s.mlp = .p4Supervise →
        step s = .next
          { s with
            env := later
            ports := p
            indHazard := d
            indSafe := !d
            trace := s.trace ++ [.setIndicator .hazard d, .setIndicator .safe (!d)]
            mlp := .p0Local }

/-- R240, R234, 93 U14: a setpoint request, a setpoint query and a persist request taken in P0; after
the request, for a persist after its program step, ML goes to P1. The program step writes the words of the
record in use (R153, R92, R94) and leaves the others erased (R53). ML's step in P0 is the request offered at
the port, or the program step of a persist under way whatever is offered, or with neither just the way to
P1 (R233, decision D30, log 29). A request offered outside P0, or a second one during a persist, is no
event (log 14). The spec marks its own inference in R153. The spec marks its own decisions D12, D30, D32.
A program step on a sector that is not erased is refused (log 18). -/
def Obligations.LocalRequests : Prop :=
  ∀ (v : F32) (s : State), s.faulted = false →
    (s.mlp = .p0Local → s.nvsBusy = .idle →
      exec (.lopSetSetpoint v) s = .next { s with setpoint := v, integral := 0#32, mlp := .p1Sample }
      ∧ exec .lopGetSetpoint s = .next
        { s with trace := s.trace ++ [.lopResult s.setpoint], mlp := .p1Sample }
      ∧ exec .lopPersist s = .next
        { s with nvs := [], trace := s.trace ++ [.erase], nvsBusy := .erasedPendingProgram })
    ∧ (s.mlp = .p0Local → s.nvsBusy = .erasedPendingProgram → s.nvs = [] →
      ∃ n w, exec .lopPersist s = .next
          { s with
            nvs := n
            trace := s.trace ++ [.program w]
            nvsBusy := .idle
            mlp := .p1Sample }
        ∧ w = ⟨0x444E4A4E#32, s.kp, s.ki, s.kd, s.interval.extractLsb' 32 32,
          s.interval.extractLsb' 0 32⟩
        ∧ w = ⟨nvsRead n 0, nvsRead n 1, nvsRead n 2, nvsRead n 3, nvsRead n 4, nvsRead n 5⟩
        ∧ (∀ i, 6 ≤ i → nvsRead n i = Config.erasedWord)
        ∧ readRecord n = some ⟨s.kp, s.ki, s.kd, s.interval⟩)
    ∧ (s.mlp ≠ .p0Local ∨ s.nvsBusy = .erasedPendingProgram →
      exec (.lopSetSetpoint v) s = .next s ∧ exec .lopGetSetpoint s = .next s)
    ∧ (s.mlp ≠ .p0Local → exec .lopPersist s = .next s)
    ∧ (∀ i, s.mlp = .p0Local → s.nvsBusy = .erasedPendingProgram →
      nvsRead s.nvs i ≠ Config.erasedWord → exec .lopPersist s = .refused .programNotErased)
    ∧ ∀ (p : Ports) (later : List Move), s.env = ⟨.ml, p⟩ :: later → s.mlp = .p0Local →
      (s.nvsBusy = .idle →
        (p.lop = none → step s = .next { s with env := later, ports := p, mlp := .p1Sample })
        ∧ (p.lop = some (.setSetpoint v) →
          step s = exec (.lopSetSetpoint v) { s with env := later, ports := p })
        ∧ (p.lop = some .getSetpoint → step s = exec .lopGetSetpoint { s with env := later, ports := p })
        ∧ (p.lop = some .persist → step s = exec .lopPersist { s with env := later, ports := p }))
      ∧ (s.nvsBusy = .erasedPendingProgram →
        step s = exec .lopPersist { s with env := later, ports := p })

/-! ## Reset (70_reset_and_hazards) -/

/-- R291, R38, R305: the reset sequence, from any state, the Faulted one included: the listed registers
at their values, the registers it leaves unspecified at any value, the sector untouched. A restart of the
platform (R290, R306) and a power loss, with the power-up after it (R273), each perform it in whatever state
the block is. That a power loss and the reset of the next power-up are one step is the model's inference
(log 19, DEDUCED). The spec marks its own inference in R306. The spec marks its own decisions D33, D38. -/
def Obligations.ResetSequence : Prop :=
  (∀ s : State, ∃ t, exec .reset s = .next t
    ∧ t.q = [] ∧ t.plc = 0 ∧ t.rsi = 0 ∧ t.ds = .waitOpcode ∧ t.mlp = .p0Local
    ∧ t.faulted = false ∧ t.faultCause = .none ∧ t.nvsBusy = .idle ∧ t.hvEnabled = false
    ∧ t.trace = s.trace ++ [.setHv false]
    ∧ t.pLimit = 0x43480000#32 ∧ t.iLimit = 0x43480000#32 ∧ t.dLimit = 0x43480000#32
    ∧ t.outLimit = 0x43480000#32 ∧ t.setpoint = Config.setpointDefault ∧ t.integral = 0#32
    ∧ t.prevMeas = none ∧ t.lastUpdate = 0#64
    ∧ (∀ a, nvsRead t.nvs a = nvsRead s.nvs a)
    ∧ (readRecord s.nvs = none → t.kp = Config.kpDefault ∧ t.ki = Config.kiDefault
      ∧ t.kd = Config.kdDefault ∧ t.interval = Config.ctrlIntervalDefault)
    ∧ ∀ r, readRecord s.nvs = some r →
      t.kp = r.kpBits ∧ t.ki = r.kiBits ∧ t.kd = r.kdBits ∧ t.interval = r.interval)
  ∧ ∀ (s : State) (p : Ports) (later : List Move),
    s.env = ⟨.restart, p⟩ :: later ∨ s.env = ⟨.powerLoss, p⟩ :: later →
    step s = exec .reset { s with env := later, ports := p }

/-- R38: the state after reset holds the values the spec states. The gains and the interval are the
defaults because the sector before the first write is erased, the model's choice (log 5, DESIGN CHOICE).
The spec marks its own decisions D11, D14, D18, D22, D30, D33. -/
def Obligations.ResetStateValues : Prop :=
  State.reset.q = [] ∧ State.reset.plc = 0 ∧ State.reset.rsi = 0
  ∧ State.reset.ds = .waitOpcode ∧ State.reset.mlp = .p0Local
  ∧ State.reset.faulted = false ∧ State.reset.faultCause = .none
  ∧ State.reset.hvEnabled = false ∧ State.reset.trace = [.setHv false]
  ∧ State.reset.pLimit = 0x43480000#32 ∧ State.reset.iLimit = 0x43480000#32
  ∧ State.reset.dLimit = 0x43480000#32 ∧ State.reset.outLimit = 0x43480000#32
  ∧ State.reset.setpoint = 0#32 ∧ State.reset.integral = 0#32 ∧ State.reset.prevMeas = none
  ∧ State.reset.lastUpdate = 0#64 ∧ State.reset.nvsBusy = .idle
  ∧ State.reset.kp = Config.kpDefault ∧ State.reset.ki = Config.kiDefault
  ∧ State.reset.kd = Config.kdDefault ∧ State.reset.interval = Config.ctrlIntervalDefault

/-! ## The steps of the block (43, 44, 20_memory) -/

/-- R194, R195: while the dispatcher is in EXECUTE or RESPOND, ML's step is the command that the bytes
in the latches decode to. The spec marks its own decision D24. -/
def Obligations.StepRunsLatchedCommand : Prop :=
  ∀ (s : State) (p : Ports) (later : List Move) (i : Instr) (after : List Byte),
    s.env = ⟨.ml, p⟩ :: later → s.faulted = false → s.mlp = .p3Dispatch →
    s.ds = .execute ∨ s.ds = .respond →
    decode [s.op, s.pl.b0, s.pl.b1, s.pl.b2, s.pl.b3] = .ok (i, after) →
    step s = exec i { s with env := later, ports := p }

/-- R191, R192: the opcode fetch of phase P3: no transaction when the queue is empty; a defined opcode
is latched; an undefined one is fatal after that one byte. That the peek of R191 and the fetch of R192 are
one step is the model's inference (log 17, DEDUCED). The spec marks its own decision D25. -/
def Obligations.StepFetchesOpcode : Prop :=
  ∀ (s : State) (p : Ports) (later : List Move),
    s.env = ⟨.ml, p⟩ :: later → s.faulted = false → s.mlp = .p3Dispatch → s.ds = .waitOpcode →
    (s.q = [] → step s = .next { s with env := later, ports := p, mlp := .p4Supervise })
    ∧ ∀ (b : Byte) (rest : List Byte), s.q = b :: rest →
      (1 ≤ b.toNat ∧ b.toNat ≤ 4 →
        step s = .next
          { s with
            env := later
            ports := p
            q := rest
            op := b
            plc := 0
            ds := if b.toNat = 2 then .execute else .readPayload })
      ∧ (b.toNat = 0 ∨ 5 ≤ b.toNat →
        step s = .next
          { s with
            env := later
            ports := p
            q := rest
            op := b
            plc := 0
            faulted := true
            faultCause := .unknownOpcode })

/-- R193, R202: a payload byte goes to its latch; while the queue is empty ML is held and nothing but the
environment's choice changes (log 14). -/
def Obligations.StepReadsPayload : Prop :=
  ∀ (s : State) (p : Ports) (later : List Move),
    s.env = ⟨.ml, p⟩ :: later → s.faulted = false → s.mlp = .p3Dispatch → s.ds = .readPayload →
    (s.q = [] → step s = .next { s with env := later, ports := p })
    ∧ ∀ (b : Byte) (rest : List Byte), s.q = b :: rest → s.plc < npl s.op →
      step s = .next
        { s with
          env := later
          ports := p
          q := rest
          pl :=
            { b0 := if s.plc = 0 then b else s.pl.b0
              b1 := if s.plc = 1 then b else s.pl.b1
              b2 := if s.plc = 2 then b else s.pl.b2
              b3 := if s.plc = 3 then b else s.pl.b3 }
          plc := s.plc + 1
          ds := if s.plc + 1 = npl s.op then .execute else .readPayload }

/-- R235: phase P1 reads the measurement port once. That ML goes on from P1 to P2 is the order of the
phases of R233, the spec's own decision D30 (log 29, DESIGN CHOICE). -/
def Obligations.StepSamples : Prop :=
  ∀ (s : State) (p : Ports) (later : List Move),
    s.env = ⟨.ml, p⟩ :: later → s.faulted = false → s.mlp = .p1Sample →
    step s = .next { s with env := later, ports := p, meas := p.adc, mlp := .p2Control }

/-- R236: phase P2 tests with the timer value of the port and, when control is due, performs the control
step with the same value and emits its result; otherwise nothing happens. That ML goes on from P2 to P3 is
the order of the phases of R233, the spec's own decision D30 (log 29, DESIGN CHOICE); that the phase is one
step is the model's inference (log 17, DEDUCED). The spec marks its own decisions D30, D31. -/
def Obligations.StepControls : Prop :=
  ∀ (s : State) (p : Ports) (later : List Move),
    s.env = ⟨.ml, p⟩ :: later → s.faulted = false → s.mlp = .p2Control →
    (needsControl p.now { s with ports := p } = false →
      step s = .next { s with env := later, ports := p, mlp := .p3Dispatch })
    ∧ (needsControl p.now { s with ports := p } = true →
      ∃ u out, exec (.pidStep s.meas p.now) { s with env := later, ports := p } = .next u
        ∧ u.ret = .output out
        ∧ step s = .next
          { u with ret := s.ret, trace := s.trace ++ [.ctlOut out], mlp := .p3Dispatch })

/-- R241: an iteration in which nothing is pending (no request, control not due, queue empty) performs
the sample and the two indicator events, and nothing else. The five phases in this order, and hazard before
safe in the trace, are the spec's own decisions D30 of R233 and D43 of R231 (log 29, DESIGN CHOICE); that
P2 and P4 are one step each is the model's inference (log 17, DEDUCED). The spec marks its own inference in
R241. -/
def Obligations.IdleIteration : Prop :=
  ∀ (s : State) (p0 p1 p2 p3 p4 : Ports) (later : List Move),
    s.env = ⟨.ml, p0⟩ :: ⟨.ml, p1⟩ :: ⟨.ml, p2⟩ :: ⟨.ml, p3⟩ :: ⟨.ml, p4⟩ :: later →
    s.faulted = false → s.mlp = .p0Local → s.nvsBusy = .idle → s.ds = .waitOpcode → s.q = [] →
    p0.lop = none → needsControl p2.now { s with ports := p2 } = false →
    ∃ d : Bool, (d = true ↔ 67 ≤ p1.adc.toNat ∨ s.hvEnabled = true)
      ∧ stepN 5 s = .next
        { s with
          env := later
          ports := p4
          meas := p1.adc
          indHazard := d
          indSafe := !d
          trace := s.trace ++ [.setIndicator .hazard d, .setIndicator .safe (!d)] }

/-- R65, R66, R114, R118, R265: RX's step is the receive event, on the state with the environment's choice
taken. Live, it appends the byte, or with a full queue latches the fault and leaves the queue as it is; in
the Faulted state the byte is ignored. It changes nothing of ML's and emits no event. A queue above its
capacity is in no run (log 23). The spec marks its own inference in R265. The spec marks its own decisions
D7, D8, D39. -/
def Obligations.RxStepTouchesQueueOnly : Prop :=
  ∀ (s : State) (b : Byte) (p : Ports) (later : List Move), s.env = ⟨.rx b, p⟩ :: later →
    step s = exec (.rxEvent b) { s with env := later, ports := p }
    ∧ (s.faulted = true → step s = .next { s with env := later, ports := p })
    ∧ (s.faulted = false → s.q.length ≠ Config.queueCapacity →
      step s = .next { s with env := later, ports := p, q := s.q ++ [b] })
    ∧ (s.faulted = false → s.q.length = Config.queueCapacity →
      step s = .next
        { s with env := later, ports := p, faulted := true, faultCause := .queueOverflow })

/-! ## Whole transactions -/

/-- R196 with R190 to R195: the frame `01 en`, en 0 or 1, taken from the queue by four steps of ML:
`SetHv`, then the echo. That 1 enables and 0 disables is decision D23 of R89 (log 24, PRESUMED). That the
peek and the opcode fetch are one step, and so the count of steps, is the model's inference (log 17,
DEDUCED). The spec marks its own decisions D23, D24, D25, D26. -/
def Obligations.HvEnableTransaction : Prop :=
  ∀ (s : State) (en : Byte) (rest : List Byte) (p1 p2 p3 p4 : Ports) (later : List Move),
    s.env = ⟨.ml, p1⟩ :: ⟨.ml, p2⟩ :: ⟨.ml, p3⟩ :: ⟨.ml, p4⟩ :: later →
    s.faulted = false → s.mlp = .p3Dispatch → s.ds = .waitOpcode → s.q = 0x01#8 :: en :: rest →
    (en.toNat ≤ 1 →
      ∃ t, stepN 4 s = .next t ∧ t.hvEnabled = decide (en.toNat = 1)
        ∧ t.trace = s.trace ++ [.setHv (decide (en.toNat = 1)), .tx 0x01#8]
        ∧ t.q = rest ∧ t.ds = .waitOpcode ∧ t.mlp = .p4Supervise ∧ t.faulted = false)
    ∧ (2 ≤ en.toNat →
      ∃ t, stepN 3 s = .next t ∧ t.faulted = true ∧ t.faultCause = .badEnableValue
        ∧ t.hvEnabled = s.hvEnabled ∧ t.trace = s.trace ∧ t.q = rest)

/-- R197 with R190 to R195: the frame `02` is answered with the two bytes of the latched measurement, in
four steps of ML. That the peek and the opcode fetch are one step, and so the count of steps, is the model's
inference (log 17, DEDUCED). The spec marks its own decisions D24, D25, D29. -/
def Obligations.GetMeasTransaction : Prop :=
  ∀ (s : State) (rest : List Byte) (p1 p2 p3 p4 : Ports) (later : List Move),
    s.env = ⟨.ml, p1⟩ :: ⟨.ml, p2⟩ :: ⟨.ml, p3⟩ :: ⟨.ml, p4⟩ :: later →
    s.faulted = false → s.mlp = .p3Dispatch → s.ds = .waitOpcode → s.q = 0x02#8 :: rest →
    ∃ t hi lo, stepN 4 s = .next t ∧ t.trace = s.trace ++ [.tx hi, .tx lo]
      ∧ hi.toNat * 256 + lo.toNat = s.meas.toNat ∧ t.meas = s.meas
      ∧ t.q = rest ∧ t.ds = .waitOpcode ∧ t.mlp = .p4Supervise ∧ t.faulted = false

/-- R198 with R190 to R195: the frame `03 ph pl wh wl` taken from the queue by seven steps of ML: the
parameters set and echoed, or nothing changed and the complemented opcode. That the peek and the opcode
fetch are one step, and so the count of steps, is the model's inference (log 17, DEDUCED). The spec marks
its own decisions D24, D25, D27. -/
def Obligations.SetPwmTransaction : Prop :=
  ∀ (s : State) (ph pl wh wl : Byte) (rest : List Byte) (p1 p2 p3 p4 p5 p6 p7 : Ports)
    (later : List Move) (period width : U16),
    s.env = ⟨.ml, p1⟩ :: ⟨.ml, p2⟩ :: ⟨.ml, p3⟩ :: ⟨.ml, p4⟩ :: ⟨.ml, p5⟩ :: ⟨.ml, p6⟩
      :: ⟨.ml, p7⟩ :: later →
    s.faulted = false → s.mlp = .p3Dispatch → s.ds = .waitOpcode →
    s.q = 0x03#8 :: ph :: pl :: wh :: wl :: rest →
    period.toNat = ph.toNat * 256 + pl.toNat → width.toNat = wh.toNat * 256 + wl.toNat →
    ∃ t, stepN 7 s = .next t ∧ t.q = rest ∧ t.ds = .waitOpcode ∧ t.mlp = .p4Supervise
      ∧ t.faulted = false
      ∧ (period.toNat ≠ 0 ∧ width.toNat ≤ period.toNat →
        t.pwmPeriod = period ∧ t.pwmWidth = width
        ∧ t.trace = s.trace ++ [.setPwm period width, .tx 0x03#8])
      ∧ (¬(period.toNat ≠ 0 ∧ width.toNat ≤ period.toNat) →
        t.pwmPeriod = s.pwmPeriod ∧ t.pwmWidth = s.pwmWidth
        ∧ t.trace = s.trace ++ [.tx 0xFC#8])

/-- R199 with R190 to R195 and R114: the frame `04 dh dl`: the pulse is fired, a byte received while it
lasts waits in the queue, and the echo is sent after it. That the peek and the opcode fetch are one step,
and so the count of five steps of ML, is the model's inference (log 17, DEDUCED). The spec marks its own
decisions D7, D24, D25, D28. -/
def Obligations.FirePulseTransaction : Prop :=
  ∀ (s : State) (dh dl b : Byte) (rest : List Byte) (p1 p2 p3 p4 p5 p6 : Ports)
    (later : List Move) (duration : U16),
    s.env = ⟨.ml, p1⟩ :: ⟨.ml, p2⟩ :: ⟨.ml, p3⟩ :: ⟨.ml, p4⟩ :: ⟨.rx b, p5⟩ :: ⟨.ml, p6⟩
      :: later →
    s.faulted = false → s.mlp = .p3Dispatch → s.ds = .waitOpcode →
    s.q = 0x04#8 :: dh :: dl :: rest → rest.length < Config.queueCapacity →
    duration.toNat = dh.toNat * 256 + dl.toNat →
    ∃ t, stepN 6 s = .next t ∧ t.trace = s.trace ++ [.firePulse duration, .tx 0x04#8]
      ∧ t.q = rest ++ [b] ∧ t.ds = .waitOpcode ∧ t.mlp = .p4Supervise ∧ t.faulted = false

/-! ## Invariants and whole-machine rules -/

/-- R11, R15, R22, R27, R36, R193, R195, R201: the invariant of the reachable states is kept by every
step. The spec marks its own decisions D11, D14, D24, D30, D33, D35. -/
def Obligations.StepKeepsInv : Prop := ∀ s t : State, s.Inv → step s = .next t → t.Inv

/-- R38: the state after reset meets the invariant. The spec marks its own decision D33. -/
def Obligations.ResetMeetsInv : Prop := State.reset.Inv

/-- R163, R164, the default law (log 9): the integral term stays NaN or within the limit and the
remembered sample never NaN. The spec marks its own inference in R164. The spec marks its own decision
D14. -/
def Obligations.StepKeepsLawInv : Prop := ∀ s t : State, s.LawInv → step s = .next t → t.LawInv

/-- R304, 93 U8: in a state that meets the invariant the block always has a next state: no run of the
block stops. That an ML which is held answers a next state, the state as it is, is the model's choice
(log 14, DESIGN CHOICE). The spec marks its own decision D1. -/
def Obligations.BlockNeverStops : Prop := ∀ s : State, s.Inv → ∃ t, step s = .next t

/-- R254, R118, R255: while faulted no instruction but RESET has any effect (log 14). The spec marks its
own decisions D8, D34. -/
def Obligations.FaultedFreezesInstructions : Prop :=
  ∀ (i : Instr) (s : State), s.faulted = true → i ≠ .reset → exec i s = .next s

/-- R255, R256: in the Faulted state each step of ML is one blink: it drives the hazard indicator, with one
event, to the opposite of the value it drove last (`blinkNext`), and to a free value the first time (93 U1,
log 13, DESIGN CHOICE). With no restart and no power loss the Faulted state lasts: the events of a run are
its blinks, as many as ML moved, alternating, the indicator holds the value of the last, and nothing else of
the block changes. That the safe indicator keeps its last value is the model's choice, on which no claim
about the real system may rest (93 U2, log 30, DESIGN CHOICE). The spec marks its own decision D34. -/
def Obligations.FaultedForever : Prop :=
  (∀ (s : State) (p : Ports) (later : List Move), s.faulted = true → s.env = ⟨.ml, p⟩ :: later →
    ∃ (v : Bool) (draws : Nat), (∀ w, s.blinkNext = some w → v = w)
      ∧ step s = .next
        { s with
          env := later
          ports := p
          indHazard := v
          trace := s.trace ++ [.setIndicator .hazard v]
          draws := draws
          blinkNext := some (!v) })
  ∧ ∀ (n : Nat) (s : State), s.faulted = true → n ≤ s.env.length →
    (∀ m ∈ s.env, m.mover = .ml ∨ ∃ b, m.mover = .rx b) →
    ∃ (t : State) (es : List Event), stepN n s = .next t
      ∧ t = { s with
        indHazard := t.indHazard, trace := s.trace ++ es, ports := t.ports, env := s.env.drop n
        draws := t.draws, blinkNext := t.blinkNext }
      ∧ (∀ e ∈ es, ∃ on, e = .setIndicator .hazard on)
      ∧ es.length = ((s.env.take n).filter fun m => m.mover == .ml).length
      ∧ (es = [] → t.indHazard = s.indHazard)
      ∧ (∀ v, es.getLast? = some (.setIndicator .hazard v) → t.indHazard = v)
      ∧ ∀ (k : Nat) (v w : Bool), es[k]? = some (.setIndicator .hazard v) →
        es[k + 1]? = some (.setIndicator .hazard w) → w = !v

/-- R17: `hv_enabled` is written by an executing HV_ENABLE and by the reset sequence, and by no other
step; in particular not by a step into the Faulted state, that of a bad enable byte among them (R305): a
step that changes it leaves `faulted` false. The spec marks its own decisions D33, D34. -/
def Obligations.HvEnabledWriters : Prop :=
  ∀ s t : State, step s = .next t → t.hvEnabled ≠ s.hvEnabled →
    t.faulted = false
    ∧ ((nextMove s).mover = .restart ∨ (nextMove s).mover = .powerLoss
      ∨ ((nextMove s).mover = .ml ∧ s.faulted = false ∧ s.mlp = .p3Dispatch ∧ s.ds = .execute
        ∧ s.op = 0x01#8))

/-- R24 to R27, R32, R153: after the reset sequence no step changes the gains, the interval or the
limits. The spec marks its own inference in R153. The spec marks its own decision D14. -/
def Obligations.TuningFixedAfterReset : Prop :=
  ∀ s t : State, step s = .next t → (nextMove s).mover ≠ .restart →
    (nextMove s).mover ≠ .powerLoss →
    t.kp = s.kp ∧ t.ki = s.ki ∧ t.kd = s.kd ∧ t.interval = s.interval
    ∧ t.pLimit = s.pLimit ∧ t.iLimit = s.iLimit ∧ t.dLimit = s.dLimit ∧ t.outLimit = s.outLimit

/-- R9, R72, R204: the trace only grows; RX emits nothing; a byte is sent only by ML in RESPOND. The
spec marks its own decisions D24, D41. -/
def Obligations.TraceGrowsAndTxOnlyInRespond : Prop :=
  ∀ s t : State, step s = .next t →
    ∃ es : List Event, t.trace = s.trace ++ es
      ∧ (∀ b, (nextMove s).mover = .rx b → es = [])
      ∧ ∀ b, Event.tx b ∈ es →
        (nextMove s).mover = .ml ∧ s.faulted = false ∧ s.mlp = .p3Dispatch ∧ s.ds = .respond

/-- R22, R264: no rule reads `fault_cause`: two states that differ in it alone step alike. The spec
marks its own inference in R264. The spec marks its own decision D35. -/
def Obligations.FaultCauseUnread : Prop :=
  ∀ (s t : State) (c : FaultCause), step s = .next t →
    ∃ c', step { s with faultCause := c } = .next { t with faultCause := c' }

/-! ## Binary32 arithmetic (00_scope R7) -/

/-- R7, R93, R170: a sum of finite values is the exact sum rounded once to nearest, ties to even (a sum is
`v` units of 2^-149, `f32Int` of a finite pattern being its value in those units), and a product the exact
product (units of 2^-298); `fsub` adds the value of flipped sign; the sign of a zero sum and of any product,
infinities and NaN are those of IEEE 754; comparisons are the ordered ones, false for NaN. A measurement
converts exactly, and the conversion back drops the fraction. The spec marks its own decisions D13, D15. -/
def Obligations.Binary32Arithmetic : Prop :=
  (∀ a b : F32, f32Finite a = true → f32Finite b = true →
    RoundedTo (fadd a b) (f32Int a + f32Int b) 0
    ∧ (f32Int a + f32Int b = 0 → f32Neg (fadd a b) = (f32Neg a && f32Neg b))
    ∧ RoundedTo (fmul a b) (f32Int a * f32Int b) 149
    ∧ flt a b = decide (f32Int a < f32Int b))
  ∧ (∀ a b : F32, f32IsNaN a = false → f32IsNaN b = false →
    (f32IsInf a = true → f32IsInf b = false ∨ f32Neg a = f32Neg b → fadd a b = a ∧ fadd b a = a)
    ∧ (f32IsInf a = true → f32IsInf b = true → f32Neg a ≠ f32Neg b → f32IsNaN (fadd a b) = true)
    ∧ (f32IsInf a = true → f32Mag b ≠ 0 →
      f32IsInf (fmul a b) = true ∧ f32IsInf (fmul b a) = true)
    ∧ (f32IsInf a = true → f32Mag b = 0 →
      f32IsNaN (fmul a b) = true ∧ f32IsNaN (fmul b a) = true)
    ∧ (f32IsNaN (fmul a b) = false → f32Neg (fmul a b) = (f32Neg a != f32Neg b))
    ∧ (f32IsInf a = true → f32IsInf b = false →
      flt a b = f32Neg a ∧ flt b a = !f32Neg a)
    ∧ (f32IsInf a = true → f32IsInf b = true → flt a b = (f32Neg a && !f32Neg b)))
  ∧ (∀ a b : F32, f32IsNaN a = true ∨ f32IsNaN b = true →
    f32IsNaN (fadd a b) = true ∧ f32IsNaN (fmul a b) = true ∧ flt a b = false)
  ∧ (∀ a b : F32, fsub a b = fadd a (fneg b) ∧ fgt a b = flt b a)
  ∧ (∀ a : F32, f32Mag (fneg a) = f32Mag a ∧ f32Neg (fneg a) = (!f32Neg a)
    ∧ f32Mag (fabs a) = f32Mag a ∧ f32Neg (fabs a) = false)
  ∧ (∀ m : U16, f32Finite (f32OfU16 m) = true ∧ f32Neg (f32OfU16 m) = false
    ∧ f32Int (f32OfU16 m) = m.toNat * 2 ^ 149)
  ∧ ∀ a : F32, f32Finite a = true → 0 ≤ f32Int a → f32Int a < 65536 * 2 ^ 149 →
    ((truncU16 a).toNat : Int) = f32Int a / 2 ^ 149
end

