-- ==== Sys2Proof/Laws/Float.lean ====
section
/-! SUPPORT. Facts about the binary32 operations: sign, magnitude and class of each result, the order,
the limiter, and what rounding to nearest gives. -/

namespace Sys2Proof.Machine

/-! ## Classes and the order -/

/-- The magnitude bits are below bit 31. -/
theorem f32Mag_lt (x : F32) : f32Mag x < 2147483648 := Nat.mod_lt _ (by decide)

/-- The sign is bit 31. -/
theorem f32Neg_eq_msb (x : F32) : f32Neg x = x.msb := by
  rw [BitVec.msb_eq_decide]; rfl

@[simp] theorem f32Mag_fneg (x : F32) : f32Mag (fneg x) = f32Mag x := by
  simp only [f32Mag, fneg, BitVec.toNat_xor]
  rw [show 2147483648 = 2 ^ 31 from rfl, Nat.xor_mod_two_pow]
  simp

@[simp] theorem f32Neg_fneg (x : F32) : f32Neg (fneg x) = !f32Neg x := by
  simp [f32Neg_eq_msb, fneg, BitVec.msb_xor]
  cases x.msb <;> rfl

@[simp] theorem f32Mag_fabs (x : F32) : f32Mag (fabs x) = f32Mag x := by
  simp only [f32Mag, fabs, BitVec.toNat_and]
  rw [show (0x7FFFFFFF#32).toNat = 2 ^ 31 - 1 from rfl, Nat.and_two_pow_sub_one_eq_mod]
  simp

@[simp] theorem f32Neg_fabs (x : F32) : f32Neg (fabs x) = false := by
  rw [f32Neg_eq_msb, fabs, BitVec.msb_and, show (0x7FFFFFFF#32).msb = false from rfl, Bool.and_false]

@[simp] theorem f32IsNaN_fneg (x : F32) : f32IsNaN (fneg x) = f32IsNaN x := by simp [f32IsNaN]
@[simp] theorem f32IsNaN_fabs (x : F32) : f32IsNaN (fabs x) = f32IsNaN x := by simp [f32IsNaN]

@[simp] theorem f32IsNaN_quietNaN (p : F32) : f32IsNaN (quietNaN p) = true := by
  have h : f32InfMag < f32Mag (quietNaN p) := by
    simp only [f32Mag, quietNaN, BitVec.toNat_or]
    rw [show 2147483648 = 2 ^ 31 from rfl, Nat.or_mod_two_pow]
    exact Nat.lt_of_lt_of_le (by decide) Nat.right_le_or
  exact decide_eq_true h

@[simp] theorem f32Key_fneg (x : F32) : f32Key (fneg x) = -f32Key x := by
  simp only [f32Key, f32Neg_fneg, f32Mag_fneg]; cases f32Neg x <;> simp

@[simp] theorem f32Key_fabs (x : F32) : f32Key (fabs x) = f32Mag x := by simp [f32Key]

theorem f32Key_natAbs (x : F32) : (f32Key x).natAbs = f32Mag x := by
  unfold f32Key; split <;> simp

theorem flt_iff {a b : F32} :
    flt a b = true ↔ f32IsNaN a = false ∧ f32IsNaN b = false ∧ f32Key a < f32Key b := by
  simp [flt, and_assoc]

/-- The limiter passes NaN through and brings every other value into the limits (42_pid R162). -/
theorem lim_spec {l : F32} (v : F32) (hl : f32IsNaN l = false) (hp : f32Neg l = false) :
    f32IsNaN (lim l v) = f32IsNaN v ∧ (f32IsNaN v = false → f32Mag (lim l v) ≤ f32Mag l) := by
  have hk : f32Key l = f32Mag l := by simp [f32Key, hp]
  unfold lim fgt
  split
  · next h => rw [flt_iff] at h; exact ⟨by rw [hl, h.2.1], fun _ => Nat.le_refl _⟩
  · split
    · next h => rw [flt_iff] at h; simp [hl, h.1]
    · next h1 h2 =>
      refine ⟨rfl, fun hv => ?_⟩
      rw [flt_iff] at h1 h2
      simp only [hl, hv, f32IsNaN_fneg, f32Key_fneg, hk, true_and, not_lt] at h1 h2
      have := f32Key_natAbs v
      omega

theorem lim_nan (l : F32) {v : F32} (h : f32IsNaN v = true) : lim l v = v := by simp [lim, fgt, flt, h]

theorem f32IsNaN_lim (l : F32) {v : F32} (h : f32IsNaN v = true) : f32IsNaN (lim l v) = true := by
  rw [lim_nan l h, h]

/-- A NaN operand makes a sum NaN (00_scope R7). -/
theorem fadd_nan {a b : F32} (h : f32IsNaN a = true ∨ f32IsNaN b = true) :
    f32IsNaN (fadd a b) = true := by rcases h with h | h <;> simp [fadd, h]

/-! ## Rounding -/

/-- A quotient rounded to nearest is no greater than a whole bound of the exact one. -/
theorem roundShift_le {n k b : Nat} (h : n ≤ b * 2 ^ k) : roundShift n k ≤ b := by
  have hp : 0 < 2 ^ k := Nat.two_pow_pos k
  have hq : n / 2 ^ k ≤ b := Nat.div_le_of_le_mul (by rwa [Nat.mul_comm])
  have hr : n / 2 ^ k = b → n % 2 ^ k = 0 := by
    intro e
    have := Nat.div_add_mod n (2 ^ k)
    rw [e, Nat.mul_comm] at this
    omega
  simp only [roundShift, Nat.shiftRight_eq_div_pow, Nat.one_shiftLeft]
  split
  · have : n / 2 ^ k ≠ b := fun e => by have := hr e; omega
    omega
  · split
    · have : n / 2 ^ k ≠ b := fun e => by have := hr e; omega
      have := Nat.mod_lt (n / 2 ^ k) (show 0 < 2 by decide)
      omega
    · exact hq

/-- A magnitude up to `m * 2^(e+sh)`, `m` of 24 bits, rounds to magnitude bits no greater than those of
`m * 2^e` units. -/
theorem roundMag_le {n m e sh : Nat} (hn : n ≤ m * 2 ^ (e + sh)) (hm : 8388608 ≤ m) (hm' : m < 16777216) :
    roundMag n sh ≤ e * 8388608 + m := by
  unfold roundMag
  refine Nat.le_trans (Nat.min_le_right _ _) ?_
  by_cases hd : dropBits n sh ≤ e + sh
  · by_cases he : dropBits n sh = e + sh
    · rw [he]; have := roundShift_le hn; omega
    · have h24 : n ≤ 16777216 * 2 ^ dropBits n sh := by
        have h1 := Nat.lt_log2_self (n := n)
        have h2 : n.log2 + 1 ≤ 24 + dropBits n sh := by unfold dropBits; omega
        have := Nat.pow_le_pow_right (show 0 < 2 by decide) h2
        rw [Nat.pow_add 2 24] at this
        have h3 : 2 ^ (n.log2 + 1) = 2 ^ n.log2 * 2 := Nat.pow_succ ..
        omega
      have hs : sh ≤ dropBits n sh := Nat.le_max_left ..
      have := roundShift_le h24
      omega
  · exfalso
    have hx : sh < dropBits n sh := by omega
    have : n.log2 + 1 - 24 = dropBits n sh := by unfold dropBits at hx ⊢; omega
    have h1 : 2 ^ n.log2 ≤ n := Nat.log2_self_le (by rintro rfl; simp at this; omega)
    have h2 := Nat.pow_le_pow_right (show 0 < 2 by decide) (show 24 + (e + sh) ≤ n.log2 by omega)
    rw [Nat.pow_add] at h2
    have := Nat.mul_lt_mul_of_pos_right hm' (Nat.two_pow_pos (e + sh))
    omega

theorem roundMag_le_inf (n sh : Nat) : roundMag n sh ≤ f32InfMag := Nat.min_le_left _ _

theorem f32Pack_toNat (neg : Bool) {mag : Nat} (h : mag ≤ f32InfMag) :
    (f32Pack neg mag).toNat = if neg then 2147483648 + mag else mag := by
  have hi : f32InfMag = 2139095040 := rfl
  cases neg <;> simp [f32Pack] <;> omega

/-- A rounding gives the sign and the magnitude bits asked for, and never NaN. -/
theorem f32Round_spec (neg : Bool) (n sh : Nat) :
    f32Neg (f32Round neg n sh) = neg ∧ f32Mag (f32Round neg n sh) = roundMag n sh
      ∧ f32IsNaN (f32Round neg n sh) = false := by
  have hr := roundMag_le_inf n sh
  have hi : f32InfMag = 2139095040 := rfl
  have ht := f32Pack_toNat neg hr
  have hm : f32Mag (f32Round neg n sh) = roundMag n sh := by
    rw [f32Mag, f32Round, ht]; cases neg <;> simp <;> omega
  refine ⟨?_, hm, ?_⟩
  · rw [f32Neg, f32Round, ht]; cases neg <;> simp; omega
  · rw [f32IsNaN, hm]; simp; exact hr

/-- Magnitude bits no greater than those of `m * 2^e` units stand for no more units. -/
theorem f32Units_le {x : F32} {e m : Nat} (h : f32Mag x ≤ e * 8388608 + m) (hm : 8388608 ≤ m)
    (hm' : m < 16777216) : f32Units x ≤ m * 2 ^ e := by
  have hp : 0 < 2 ^ e := Nat.two_pow_pos e
  unfold f32Units magUnits
  split
  · exact Nat.le_trans (by omega) (Nat.le_mul_of_pos_right m hp)
  · rw [Nat.shiftLeft_eq]
    have hd := Nat.div_add_mod (f32Mag x) 8388608
    have hr := Nat.mod_lt (f32Mag x) (show 0 < 8388608 by decide)
    by_cases hx : f32Mag x / 8388608 - 1 = e
    · rw [hx]; exact Nat.mul_le_mul_right _ (by omega)
    · have hlt : f32Mag x / 8388608 - 1 + 1 ≤ e := by omega
      have := Nat.pow_le_pow_right (show 0 < 2 by decide) hlt
      rw [Nat.pow_succ] at this
      calc _ ≤ 16777216 * 2 ^ (f32Mag x / 8388608 - 1) := Nat.mul_le_mul_right _ (by omega)
        _ ≤ 8388608 * 2 ^ e := by omega
        _ ≤ m * 2 ^ e := Nat.mul_le_mul_right _ hm

/-! ## What magnitude bits stand for -/

/-- A significand `m` of at most 24 bits at the exponent of `e` stands for `m * 2^e` units. -/
theorem magUnits_eq {e m : Nat} (hm : e = 0 ∨ 8388608 ≤ m) (hm' : m ≤ 16777216) :
    magUnits (e * 8388608 + m) = m * 2 ^ e := by
  unfold magUnits
  split
  · have : e = 0 := by omega
    subst this; simp
  · rw [Nat.shiftLeft_eq]
    by_cases h : m = 16777216
    · subst h
      rw [show (e * 8388608 + 16777216) / 8388608 - 1 = e + 1 by omega,
        show (e * 8388608 + 16777216) % 8388608 = 0 by omega, Nat.pow_succ]
      omega
    · rw [show (e * 8388608 + m) / 8388608 - 1 = e by omega,
        show 8388608 + (e * 8388608 + m) % 8388608 = m by omega]

/-- The next magnitude bits stand for a greater magnitude. -/
theorem magUnits_lt_succ (k : Nat) : magUnits k < magUnits (k + 1) := by
  have h : ∃ e m, k = e * 8388608 + m ∧ (e = 0 ∨ 8388608 ≤ m) ∧ m < 16777216 := by
    by_cases hk : k < 8388608
    · exact ⟨0, k, by omega, .inl rfl, by omega⟩
    · exact ⟨k / 8388608 - 1, 8388608 + k % 8388608, by omega, .inr (by omega), by omega⟩
  obtain ⟨e, m, rfl, hm, hm'⟩ := h
  rw [magUnits_eq hm (by omega), Nat.add_assoc, magUnits_eq (by omega) (by omega)]
  exact Nat.mul_lt_mul_of_pos_right (Nat.lt_succ_self m) (Nat.two_pow_pos e)

/-- Greater magnitude bits stand for a greater magnitude. -/
theorem magUnits_strictMono : StrictMono magUnits := strictMono_nat_of_lt_succ magUnits_lt_succ

/-- The 24 bits a rounding keeps, and where they lie. -/
theorem keptBits_spec (n sh : Nat) :
    sh ≤ dropBits n sh ∧ n / 2 ^ dropBits n sh < 16777216
      ∧ (dropBits n sh = sh ∨ 8388608 ≤ n / 2 ^ dropBits n sh) := by
  refine ⟨Nat.le_max_left .., ?_, ?_⟩
  · rw [Nat.div_lt_iff_lt_mul (Nat.two_pow_pos _)]
    have h1 := Nat.lt_log2_self (n := n)
    have h2 : n.log2 + 1 ≤ 24 + dropBits n sh := by unfold dropBits; omega
    have := Nat.pow_le_pow_right (show 0 < 2 by decide) h2
    rw [Nat.pow_add 2 24] at this
    omega
  · by_cases hd : dropBits n sh = sh
    · exact .inl hd
    · right
      have hx : n.log2 + 1 - 24 = dropBits n sh ∧ 24 ≤ n.log2 + 1 := by unfold dropBits at hd ⊢; omega
      have h1 : 2 ^ n.log2 ≤ n := Nat.log2_self_le (by rintro rfl; simp at hx)
      rw [Nat.le_div_iff_mul_le (Nat.two_pow_pos _)]
      have h2 := Nat.pow_le_pow_right (show 0 < 2 by decide) (show 23 + dropBits n sh ≤ n.log2 by omega)
      rw [Nat.pow_add] at h2
      omega

/-- The magnitude bits of a rounding before the cut at infinity. -/
theorem roundMag_eq (n sh : Nat) :
    roundMag n sh =
      min f32InfMag ((dropBits n sh - sh) * 8388608 + roundShift n (dropBits n sh)) := rfl

/-- The exact magnitude `n` lies between two neighbours, `q` and `q + 1` at the exponent of the rounding;
the rounding takes the nearer one, and on a tie the one with even bits. -/
theorem roundShift_cases (n sh : Nat) :
    ∃ lower step rem, n = lower + rem ∧ rem < step ∧ step = 2 ^ dropBits n sh
      ∧ magUnits ((dropBits n sh - sh) * 8388608 + n / 2 ^ dropBits n sh) * 2 ^ sh = lower
      ∧ magUnits ((dropBits n sh - sh) * 8388608 + n / 2 ^ dropBits n sh + 1) * 2 ^ sh = lower + step
      ∧ ((step < 2 * rem ∧ roundShift n (dropBits n sh) = n / 2 ^ dropBits n sh + 1)
        ∨ (2 * rem = step
          ∧ roundShift n (dropBits n sh) = n / 2 ^ dropBits n sh + n / 2 ^ dropBits n sh % 2)
        ∨ (2 * rem < step ∧ roundShift n (dropBits n sh) = n / 2 ^ dropBits n sh)) := by
  obtain ⟨hs, hq, hn⟩ := keptBits_spec n sh
  have hp : 2 ^ (dropBits n sh - sh) * 2 ^ sh = 2 ^ dropBits n sh := by
    rw [← Nat.pow_add]; congr 1; omega
  refine ⟨n / 2 ^ dropBits n sh * 2 ^ dropBits n sh, 2 ^ dropBits n sh, n % 2 ^ dropBits n sh,
    (Nat.div_add_mod' _ _).symm, Nat.mod_lt _ (Nat.two_pow_pos _), rfl, ?_, ?_, ?_⟩
  · rw [magUnits_eq (by omega) (by omega), Nat.mul_assoc, hp]
  · rw [Nat.add_assoc, magUnits_eq (by omega) (by omega), Nat.mul_assoc, hp, Nat.add_mul, Nat.one_mul]
  · simp only [roundShift, Nat.shiftRight_eq_div_pow, Nat.one_shiftLeft]
    split
    · exact .inl ⟨‹_›, rfl⟩
    · split
      · exact .inr (.inl ⟨‹_›, rfl⟩)
      · exact .inr (.inr ⟨by omega, rfl⟩)

/-- No magnitude bits stand for a magnitude nearer to the exact one than those of the rounding, and a
different magnitude as near leaves even bits. -/
theorem roundShift_nearest (n sh k : Nat) :
    let r := (dropBits n sh - sh) * 8388608 + roundShift n (dropBits n sh)
    ((magUnits r * 2 ^ sh : Int) - n).natAbs ≤ ((magUnits k * 2 ^ sh : Int) - n).natAbs
      ∧ (((magUnits r * 2 ^ sh : Int) - n).natAbs = ((magUnits k * 2 ^ sh : Int) - n).natAbs →
        magUnits k ≠ magUnits r → r % 2 = 0) := by
  intro r
  obtain ⟨lo, st, rem, hn, hr, -, hlo, hhi, hc⟩ := roundShift_cases n sh
  set b := (dropBits n sh - sh) * 8388608 + n / 2 ^ dropBits n sh with hb
  have hk : magUnits k * 2 ^ sh ≤ lo ∨ lo + st ≤ magUnits k * 2 ^ sh := by
    rw [← hlo]
    by_cases h : k ≤ b
    · exact .inl (Nat.mul_le_mul_right _ (magUnits_strictMono.monotone h))
    · right; rw [hlo, ← hhi]
      exact Nat.mul_le_mul_right _ (magUnits_strictMono.monotone (by omega))
  have hinj : ∀ x, magUnits k * 2 ^ sh = magUnits x * 2 ^ sh → magUnits k = magUnits x := fun x h =>
    Nat.eq_of_mul_eq_mul_right (Nat.two_pow_pos sh) h
  have hpush : ∀ x, ((magUnits x : Int) * 2 ^ sh) = ((magUnits x * 2 ^ sh : Nat) : Int) := fun x => by
    push_cast; rfl
  simp only [hpush]
  rcases hc with ⟨h1, h2⟩ | ⟨h1, h2⟩ | ⟨h1, h2⟩
  · have hre : r = b + 1 := by simp only [r, h2, hb]; omega
    have hi := hinj (b + 1)
    rw [hre, hhi] at *
    refine ⟨by omega, fun he hne => ?_⟩
    exact absurd (hi (by omega)) hne
  · have hre : r = b + n / 2 ^ dropBits n sh % 2 := by simp only [r, h2, hb]; omega
    have hev : r % 2 = 0 := by simp only [r, h2]; omega
    refine ⟨?_, fun _ _ => hev⟩
    rcases Nat.mod_two_eq_zero_or_one (n / 2 ^ dropBits n sh) with h | h <;> rw [h] at hre <;> rw [hre]
    · rw [Nat.add_zero, hlo]; omega
    · rw [hhi]; omega
  · have hre : r = b := by simp only [r, h2, hb]
    have hi := hinj b
    rw [hre, hlo] at *
    refine ⟨by omega, fun he hne => ?_⟩
    exact absurd (hi (by omega)) hne

/-- The comparison behind `roundMag_inf_iff`, with the magnitudes as numbers: `top` is the magnitude just
past the greatest finite one, a step of two quarters `x` above it. -/
theorem nearest_overflow {u : Nat → Nat} (hu : StrictMono u) {s x n r inf : Nat} (hs : 0 < s) (hx : 0 < x)
    (hinf : u (inf + 1) * s = 33554432 * x) (hpred : u inf * s = 33554430 * x) (hodd : inf % 2 = 1)
    (hnear : (((u r * s : Nat) : Int) - n).natAbs ≤ (((33554432 * x : Nat) : Int) - n).natAbs)
    (htie : (((u r * s : Nat) : Int) - n).natAbs = (((33554432 * x : Nat) : Int) - n).natAbs →
      u (inf + 1) ≠ u r → r % 2 = 0)
    (hnear' : (((u r * s : Nat) : Int) - n).natAbs ≤ (((33554430 * x : Nat) : Int) - n).natAbs) :
    inf + 1 ≤ r ↔ 33554431 * x ≤ n := by
  have hge : inf + 1 ≤ r ↔ 33554432 * x ≤ u r * s := by
    rw [← hinf, Nat.mul_le_mul_right_iff hs, hu.le_iff_le]
  constructor
  · intro h
    have h := hge.1 h
    generalize u r * s = v at *
    omega
  · intro h
    by_contra hlt
    have h1 : u r * s ≤ 33554430 * x := by
      rw [← hpred]; exact Nat.mul_le_mul_right _ (hu.monotone (by omega))
    have h2 : u r * s = 33554430 * x := by generalize u r * s = v at *; omega
    have hev := htie (by rw [h2]; omega) (by
      intro e
      have := congrArg (· * s) e
      simp only [hinf] at this
      omega)
    have := hu.injective (Nat.eq_of_mul_eq_mul_right hs (h2.trans hpred.symm))
    omega

/-- The greatest finite magnitude and the next one, which infinity's bits would stand for. -/
theorem magUnits_top (sh : Nat) :
    magUnits (2139095039 + 1) * 2 ^ sh = 33554432 * 2 ^ (252 + sh)
      ∧ magUnits 2139095039 * 2 ^ sh = 33554430 * 2 ^ (252 + sh) := by
  have h1 := magUnits_eq (e := 254) (m := 8388608) (by omega) (by omega)
  have h2 := magUnits_eq (e := 253) (m := 16777215) (by omega) (by omega)
  have e1 : 8388608 * 2 ^ 254 = 33554432 * 2 ^ 252 := by
    rw [show 254 = 252 + 2 by omega, Nat.pow_add]; omega
  have e2 : 16777215 * 2 ^ 253 = 33554430 * 2 ^ 252 := by
    rw [show 253 = 252 + 1 by omega, Nat.pow_add]; omega
  rw [Nat.pow_add, ← Nat.mul_assoc, ← Nat.mul_assoc, ← e1, ← e2, ← h1, ← h2]
  exact ⟨rfl, rfl⟩

/-- A rounding gives infinity exactly from the magnitude half a step above the greatest finite one on. -/
theorem roundMag_inf_iff (n sh : Nat) :
    roundMag n sh = f32InfMag ↔ 33554431 * 2 ^ (252 + sh) ≤ n := by
  have hpush : ∀ x, ((magUnits x : Int) * 2 ^ sh) = ((magUnits x * 2 ^ sh : Nat) : Int) := fun x => by
    push_cast; rfl
  obtain ⟨hinf, hpred⟩ := magUnits_top sh
  obtain ⟨hnear, htie⟩ := roundShift_nearest n sh (2139095039 + 1)
  obtain ⟨hnear', -⟩ := roundShift_nearest n sh 2139095039
  rw [hpush, hpush] at hnear htie hnear'
  rw [hinf] at hnear htie
  rw [hpred] at hnear'
  have h := nearest_overflow magUnits_strictMono (Nat.two_pow_pos sh) (Nat.two_pow_pos (252 + sh)) hinf hpred
    rfl hnear htie hnear'
  rw [roundMag_eq, show f32InfMag = 2139095039 + 1 from rfl, min_eq_left_iff, h]

/-! ## The rounding as one law -/

theorem f32Finite_iff {x : F32} : f32Finite x = true ↔ f32IsNaN x = false ∧ f32IsInf x = false := by
  simp [f32Finite, f32IsNaN, f32IsInf]; omega

theorem f32Int_natAbs (x : F32) : (f32Int x).natAbs = f32Units x := by unfold f32Int; split <;> simp

/-- Finite values are ordered as their keys are. -/
theorem f32Int_lt_iff (a b : F32) : f32Int a < f32Int b ↔ f32Key a < f32Key b := by
  have hm := magUnits_strictMono
  have h0 : magUnits 0 = 0 := by decide
  have h1 := hm.lt_iff_lt (a := f32Mag a) (b := f32Mag b)
  have h2 := hm.lt_iff_lt (a := f32Mag b) (b := f32Mag a)
  have h3 := hm.lt_iff_lt (a := 0) (b := f32Mag a)
  have h4 := hm.lt_iff_lt (a := 0) (b := f32Mag b)
  rw [h0] at h3 h4
  unfold f32Int f32Key f32Units
  generalize magUnits (f32Mag a) = x at *
  generalize magUnits (f32Mag b) = y at *
  generalize f32Mag a = c at *
  generalize f32Mag b = d at *
  cases f32Neg a <;> cases f32Neg b <;> simp <;> omega

/-- A magnitude that needs no bit below the 24 kept is its own rounding. -/
theorem roundMag_exact {n : Nat} (hd : 2 ^ dropBits n 0 ∣ n) (hf : n < 33554431 * 2 ^ 252) :
    roundMag n 0 < f32InfMag ∧ magUnits (roundMag n 0) = n := by
  have hlt : roundMag n 0 < f32InfMag := by
    refine Nat.lt_of_le_of_ne (roundMag_le_inf n 0) fun h => ?_
    have := (roundMag_inf_iff n 0).1 h
    omega
  refine ⟨hlt, ?_⟩
  obtain ⟨-, hq, hk⟩ := keptBits_spec n 0
  have hr : roundShift n (dropBits n 0) = n / 2 ^ dropBits n 0 := by
    have := Nat.two_pow_pos (dropBits n 0)
    simp only [roundShift, Nat.shiftRight_eq_div_pow, Nat.one_shiftLeft, Nat.mod_eq_zero_of_dvd hd]
    rw [if_neg (by omega), if_neg (by omega)]
  rw [roundMag_eq, hr, Nat.sub_zero] at hlt ⊢
  rw [Nat.min_eq_right (by omega), magUnits_eq hk (by omega), Nat.div_mul_cancel hd]

/-- Distances to a signed value from those to its magnitude `n`: a value of the same sign and magnitude `A`
is no farther than one of any sign and magnitude `B`, where `A` is no farther from `n` than `B` and zero
are; and where it is as far, the other value has the same sign or is zero. -/
theorem signed_dist {neg sx : Bool} {A B n : Nat} (a1 : ((A : Int) - n).natAbs ≤ ((B : Int) - n).natAbs)
    (a3 : ((A : Int) - n).natAbs ≤ (((0 * 2 ^ sh : Nat) : Int) - n).natAbs) :
    ((if neg then -(A : Int) else A) - (if neg then -(n : Int) else n)).natAbs
        ≤ ((if sx then -(B : Int) else B) - (if neg then -(n : Int) else n)).natAbs
      ∧ (((if neg then -(A : Int) else A) - (if neg then -(n : Int) else n)).natAbs
          = ((if sx then -(B : Int) else B) - (if neg then -(n : Int) else n)).natAbs →
        ((A : Int) - n).natAbs = ((B : Int) - n).natAbs ∧ (sx = neg ∨ B = 0)) := by
  rw [Nat.zero_mul] at a3
  cases neg <;> cases sx <;> simp <;> omega

/-- The rounding of a magnitude under the sign of a value is that value rounded once, to nearest, ties to
even (00_scope R7). -/
theorem f32Round_rounded {v : Int} {neg : Bool} {n sh : Nat} (hn : n = v.natAbs)
    (hs : v ≠ 0 → neg = decide (v < 0)) : RoundedTo (f32Round neg n sh) v sh := by
  obtain ⟨hneg, hmag, hnum⟩ := f32Round_spec neg n sh
  have hinf := roundMag_inf_iff n sh
  have hcut := roundMag_eq n sh
  rw [← hmag] at hinf hcut
  generalize f32Round neg n sh = r at *
  have hv : v = if neg then -(n : Int) else n := by
    by_cases h : v = 0
    · subst h; simp at hn; subst hn; simp
    · have := hs h; subst this; simp; split <;> omega
  have hint : ∀ x : F32, f32Int x * 2 ^ sh =
      if f32Neg x then -((f32Units x * 2 ^ sh : Nat) : Int) else ((f32Units x * 2 ^ sh : Nat) : Int) := by
    intro x; unfold f32Int; split <;> simp
  have hpush : ∀ m, ((magUnits m : Int) * 2 ^ sh) = ((magUnits m * 2 ^ sh : Nat) : Int) := fun m => by
    push_cast; rfl
  have near : f32Finite r = true → ∀ x : F32,
      (f32Int r * 2 ^ sh - v).natAbs ≤ (f32Int x * 2 ^ sh - v).natAbs
      ∧ ((f32Int r * 2 ^ sh - v).natAbs = (f32Int x * 2 ^ sh - v).natAbs → f32Int x ≠ f32Int r →
        f32Mag r % 2 = 0) := by
    intro hfin x
    simp only [f32Finite, decide_eq_true_eq] at hfin
    have hr : f32Mag r = (dropBits n sh - sh) * 8388608 + roundShift n (dropBits n sh) := by omega
    obtain ⟨a1, a2⟩ := roundShift_nearest n sh (f32Mag x)
    obtain ⟨a3, -⟩ := roundShift_nearest n sh 0
    rw [← hr, hpush, hpush] at a1 a2 a3
    rw [show magUnits 0 = 0 by decide] at a3
    obtain ⟨b1, b2⟩ := signed_dist (neg := neg) (sx := f32Neg x) a1 a3
    rw [hint, hint, hneg, hv]
    refine ⟨b1, fun e ne => ?_⟩
    obtain ⟨b3, b4⟩ := b2 e
    refine a2 b3 fun eq => ne ?_
    have hz := b4.imp_right fun h =>
      (Nat.mul_eq_zero.1 h).resolve_right (Nat.ne_of_gt (Nat.two_pow_pos sh))
    simp only [f32Int, f32Units, hneg, eq] at hz ⊢
    rcases hz with hz | hz
    · rw [hz]
    · simp [hz]
  refine ⟨hnum, fun h => by rw [hneg, hs h], ?_, fun h x _ => (near h x).1, fun h x _ => (near h x).2⟩
  rw [← hn, ← hinf]
  simp only [f32IsInf, decide_eq_true_eq]

end Sys2Proof.Machine
end

