-- ==== Sys2Proof/Laws/Memory.lean ====
section
/-! SUPPORT. The sector: a read after a write, and the canonical form kept by every operation. -/

namespace Sys2Proof.Machine

theorem nvsWfFrom_mono {n : Nvs} {lo lo' : Nat} (h : nvsWfFrom lo n = true) (hl : lo' ≤ lo) :
    nvsWfFrom lo' n = true := by
  cases n with
  | nil => rfl
  | cons p rest =>
    simp only [nvsWfFrom, Bool.and_eq_true, decide_eq_true_eq] at h ⊢
    exact ⟨⟨⟨by omega, h.1.1.2⟩, h.1.2⟩, h.2⟩

/-- Below the first listed index every word is erased. -/
theorem nvsRead_below {n : Nvs} {lo i : Nat} (h : nvsWfFrom lo n = true) (hi : i < lo) :
    nvsRead n i = Config.erasedWord := by
  induction n generalizing lo with
  | nil => rfl
  | cons p rest ih =>
    simp only [nvsWfFrom, Bool.and_eq_true, decide_eq_true_eq] at h
    rw [nvsRead, if_neg (by omega), ih h.2 (by omega)]

@[simp] theorem nvsRead_nil (i : Nat) : nvsRead [] i = Config.erasedWord := rfl

theorem nvsRead_insert (n : Nvs) (i j : Nat) (v : U32) :
    nvsRead (nvsInsert n i v) j = if j = i then v else nvsRead n j := by
  induction n with
  | nil => by_cases h : i = j <;> simp [nvsInsert, nvsRead, h, eq_comm]
  | cons p rest ih =>
    obtain ⟨k, w⟩ := p
    simp only [nvsInsert]
    split
    · by_cases h : i = j <;> simp [nvsRead, h, eq_comm]
    · split
      · subst i
        by_cases h : k = j
        · simp [nvsRead, h]
        · simp [nvsRead, h, Ne.symm h]
      · by_cases h : k = j
        · subst j; simp [nvsRead]; omega
        · simp [nvsRead, h, ih]

theorem nvsRead_remove {n : Nvs} {lo : Nat} (h : nvsWfFrom lo n = true) (i j : Nat) :
    nvsRead (nvsRemove n i) j = if j = i then Config.erasedWord else nvsRead n j := by
  induction n generalizing lo with
  | nil => simp [nvsRemove]
  | cons p rest ih =>
    obtain ⟨k, w⟩ := p
    simp only [nvsWfFrom, Bool.and_eq_true, decide_eq_true_eq] at h
    simp only [nvsRemove]
    split
    · subst i
      by_cases hj : j = k
      · subst hj; simp [nvsRead_below h.2 (Nat.lt_succ_self j)]
      · simp [nvsRead, hj, Ne.symm hj]
    · by_cases hj : k = j
      · subst hj
        have : ¬ k = i := fun e => by omega
        simp [nvsRead, this]
      · simp [nvsRead, hj, ih h.2]

/-- The word written is the word read, and every other word stays (20_memory R52). -/
theorem nvsRead_write {n : Nvs} (h : Memory.wf n = true) (i j : Nat) (v : U32) :
    nvsRead (nvsWrite n i v) j = if j = i then v else nvsRead n j := by
  unfold nvsWrite
  split
  · next hv => rw [nvsRead_remove h, hv]
  · exact nvsRead_insert n i j v

theorem nvsWfFrom_insert {n : Nvs} {lo i : Nat} {v : U32} (h : nvsWfFrom lo n = true) (hi : lo ≤ i)
    (hs : i < Config.sectorWords) (hv : v ≠ Config.erasedWord) :
    nvsWfFrom lo (nvsInsert n i v) = true := by
  induction n generalizing lo with
  | nil => simp [nvsInsert, nvsWfFrom, hi, hs, hv]
  | cons p rest ih =>
    obtain ⟨k, w⟩ := p
    simp only [nvsWfFrom, Bool.and_eq_true, decide_eq_true_eq] at h
    simp only [nvsInsert]
    split
    · next hik =>
      simp only [nvsWfFrom, Bool.and_eq_true, decide_eq_true_eq]
      exact ⟨⟨⟨hi, hs⟩, hv⟩, ⟨⟨by omega, h.1.1.2⟩, h.1.2⟩, h.2⟩
    · split
      · subst i
        simp only [nvsWfFrom, Bool.and_eq_true, decide_eq_true_eq]
        exact ⟨⟨⟨hi, hs⟩, hv⟩, h.2⟩
      · simp only [nvsWfFrom, Bool.and_eq_true, decide_eq_true_eq]
        exact ⟨⟨h.1.1, h.1.2⟩, ih h.2 (by omega)⟩

theorem nvsWfFrom_remove {n : Nvs} {lo : Nat} (i : Nat) (h : nvsWfFrom lo n = true) :
    nvsWfFrom lo (nvsRemove n i) = true := by
  induction n generalizing lo with
  | nil => rfl
  | cons p rest ih =>
    obtain ⟨k, w⟩ := p
    simp only [nvsWfFrom, Bool.and_eq_true, decide_eq_true_eq] at h
    simp only [nvsRemove]
    split
    · exact nvsWfFrom_mono h.2 (by omega)
    · simp only [nvsWfFrom, Bool.and_eq_true, decide_eq_true_eq]
      exact ⟨h.1, ih h.2⟩

theorem wf_nvsWrite {n : Nvs} {i : Nat} (v : U32) (h : Memory.wf n = true)
    (hs : i < Config.sectorWords) : Memory.wf (nvsWrite n i v) = true := by
  unfold nvsWrite
  split
  · exact nvsWfFrom_remove i h
  · next hv => exact nvsWfFrom_insert h (Nat.zero_le i) hs hv

/-- The record lies inside the sector (00_scope R2). -/
theorem record_in_sector {i : Nat} (h : i < 6) : i < Config.sectorWords := by
  unfold Config.sectorWords; omega

theorem wf_nvsProgram {n : Nvs} (w : RecordWords) (h : Memory.wf n = true) :
    Memory.wf (nvsProgram n w) = true := by
  unfold nvsProgram
  repeat (refine wf_nvsWrite _ ?_ (record_in_sector (by omega)))
  exact h

/-- The words after a program pass (41_nonvolatile R132). -/
theorem nvsRead_nvsProgram {n : Nvs} (w : RecordWords) (h : Memory.wf n = true) (j : Nat) :
    nvsRead (nvsProgram n w) j =
      if j = 5 then w.w5 else if j = 4 then w.w4 else if j = 3 then w.w3
      else if j = 2 then w.w2 else if j = 1 then w.w1 else if j = 0 then w.w0 else nvsRead n j := by
  have h0 := wf_nvsWrite w.w0 h (record_in_sector (i := 0) (by omega))
  have h1 := wf_nvsWrite w.w1 h0 (record_in_sector (i := 1) (by omega))
  have h2 := wf_nvsWrite w.w2 h1 (record_in_sector (i := 2) (by omega))
  have h3 := wf_nvsWrite w.w3 h2 (record_in_sector (i := 3) (by omega))
  have h4 := wf_nvsWrite w.w4 h3 (record_in_sector (i := 4) (by omega))
  unfold nvsProgram
  rw [nvsRead_write h4, nvsRead_write h3, nvsRead_write h2, nvsRead_write h1, nvsRead_write h0,
    nvsRead_write h]

/-- An erased sector in canonical form lists nothing. -/
theorem eq_nil_of_erased {n : Nvs} (h : Memory.wf n = true) (he : nvsErased n = true) : n = [] := by
  cases n with
  | nil => rfl
  | cons p rest =>
    simp only [Memory.wf, nvsWfFrom, Bool.and_eq_true, decide_eq_true_eq] at h
    simp [nvsErased, h.1.2] at he

theorem wf_reset : Memory.wf State.reset.nvs = true := rfl

end Sys2Proof.Machine
end

