-- ==== Sys2Proof/Laws/State.lean ====
section
/-! SUPPORT. The fields of a state after each named update: one lemma per field and update, so that no
proof unfolds a record update. -/

namespace Sys2Proof.Machine

/-! ## `emit` -/

@[simp] theorem emit_q (e : Event) (s : State) : (emit e s).q = s.q := rfl
@[simp] theorem emit_meas (e : Event) (s : State) : (emit e s).meas = s.meas := rfl
@[simp] theorem emit_op (e : Event) (s : State) : (emit e s).op = s.op := rfl
@[simp] theorem emit_pl (e : Event) (s : State) : (emit e s).pl = s.pl := rfl
@[simp] theorem emit_plc (e : Event) (s : State) : (emit e s).plc = s.plc := rfl
@[simp] theorem emit_rsi (e : Event) (s : State) : (emit e s).rsi = s.rsi := rfl
@[simp] theorem emit_pwmPeriod (e : Event) (s : State) : (emit e s).pwmPeriod = s.pwmPeriod := rfl
@[simp] theorem emit_pwmWidth (e : Event) (s : State) : (emit e s).pwmWidth = s.pwmWidth := rfl
@[simp] theorem emit_hvEnabled (e : Event) (s : State) : (emit e s).hvEnabled = s.hvEnabled := rfl
@[simp] theorem emit_indHazard (e : Event) (s : State) : (emit e s).indHazard = s.indHazard := rfl
@[simp] theorem emit_indSafe (e : Event) (s : State) : (emit e s).indSafe = s.indSafe := rfl
@[simp] theorem emit_ds (e : Event) (s : State) : (emit e s).ds = s.ds := rfl
@[simp] theorem emit_mlp (e : Event) (s : State) : (emit e s).mlp = s.mlp := rfl
@[simp] theorem emit_faulted (e : Event) (s : State) : (emit e s).faulted = s.faulted := rfl
@[simp] theorem emit_faultCause (e : Event) (s : State) : (emit e s).faultCause = s.faultCause := rfl
@[simp] theorem emit_kp (e : Event) (s : State) : (emit e s).kp = s.kp := rfl
@[simp] theorem emit_ki (e : Event) (s : State) : (emit e s).ki = s.ki := rfl
@[simp] theorem emit_kd (e : Event) (s : State) : (emit e s).kd = s.kd := rfl
@[simp] theorem emit_pLimit (e : Event) (s : State) : (emit e s).pLimit = s.pLimit := rfl
@[simp] theorem emit_iLimit (e : Event) (s : State) : (emit e s).iLimit = s.iLimit := rfl
@[simp] theorem emit_dLimit (e : Event) (s : State) : (emit e s).dLimit = s.dLimit := rfl
@[simp] theorem emit_outLimit (e : Event) (s : State) : (emit e s).outLimit = s.outLimit := rfl
@[simp] theorem emit_setpoint (e : Event) (s : State) : (emit e s).setpoint = s.setpoint := rfl
@[simp] theorem emit_integral (e : Event) (s : State) : (emit e s).integral = s.integral := rfl
@[simp] theorem emit_prevMeas (e : Event) (s : State) : (emit e s).prevMeas = s.prevMeas := rfl
@[simp] theorem emit_interval (e : Event) (s : State) : (emit e s).interval = s.interval := rfl
@[simp] theorem emit_lastUpdate (e : Event) (s : State) : (emit e s).lastUpdate = s.lastUpdate := rfl
@[simp] theorem emit_nvs (e : Event) (s : State) : (emit e s).nvs = s.nvs := rfl
@[simp] theorem emit_nvsBusy (e : Event) (s : State) : (emit e s).nvsBusy = s.nvsBusy := rfl
@[simp] theorem emit_trace (e : Event) (s : State) : (emit e s).trace = s.trace ++ [e] := rfl
@[simp] theorem emit_ports (e : Event) (s : State) : (emit e s).ports = s.ports := rfl
@[simp] theorem emit_env (e : Event) (s : State) : (emit e s).env = s.env := rfl
@[simp] theorem emit_tick (e : Event) (s : State) : (emit e s).tick = s.tick := rfl
@[simp] theorem emit_draws (e : Event) (s : State) : (emit e s).draws = s.draws := rfl
@[simp] theorem emit_blinkNext (e : Event) (s : State) : (emit e s).blinkNext = s.blinkNext := rfl
@[simp] theorem emit_ret (e : Event) (s : State) : (emit e s).ret = s.ret := rfl

/-! ## `eraseSector` -/

@[simp] theorem eraseSector_q (s : State) : (eraseSector s).q = s.q := rfl
@[simp] theorem eraseSector_meas (s : State) : (eraseSector s).meas = s.meas := rfl
@[simp] theorem eraseSector_op (s : State) : (eraseSector s).op = s.op := rfl
@[simp] theorem eraseSector_pl (s : State) : (eraseSector s).pl = s.pl := rfl
@[simp] theorem eraseSector_plc (s : State) : (eraseSector s).plc = s.plc := rfl
@[simp] theorem eraseSector_rsi (s : State) : (eraseSector s).rsi = s.rsi := rfl
@[simp] theorem eraseSector_pwmPeriod (s : State) : (eraseSector s).pwmPeriod = s.pwmPeriod := rfl
@[simp] theorem eraseSector_pwmWidth (s : State) : (eraseSector s).pwmWidth = s.pwmWidth := rfl
@[simp] theorem eraseSector_hvEnabled (s : State) : (eraseSector s).hvEnabled = s.hvEnabled := rfl
@[simp] theorem eraseSector_indHazard (s : State) : (eraseSector s).indHazard = s.indHazard := rfl
@[simp] theorem eraseSector_indSafe (s : State) : (eraseSector s).indSafe = s.indSafe := rfl
@[simp] theorem eraseSector_ds (s : State) : (eraseSector s).ds = s.ds := rfl
@[simp] theorem eraseSector_mlp (s : State) : (eraseSector s).mlp = s.mlp := rfl
@[simp] theorem eraseSector_faulted (s : State) : (eraseSector s).faulted = s.faulted := rfl
@[simp] theorem eraseSector_faultCause (s : State) : (eraseSector s).faultCause = s.faultCause := rfl
@[simp] theorem eraseSector_kp (s : State) : (eraseSector s).kp = s.kp := rfl
@[simp] theorem eraseSector_ki (s : State) : (eraseSector s).ki = s.ki := rfl
@[simp] theorem eraseSector_kd (s : State) : (eraseSector s).kd = s.kd := rfl
@[simp] theorem eraseSector_pLimit (s : State) : (eraseSector s).pLimit = s.pLimit := rfl
@[simp] theorem eraseSector_iLimit (s : State) : (eraseSector s).iLimit = s.iLimit := rfl
@[simp] theorem eraseSector_dLimit (s : State) : (eraseSector s).dLimit = s.dLimit := rfl
@[simp] theorem eraseSector_outLimit (s : State) : (eraseSector s).outLimit = s.outLimit := rfl
@[simp] theorem eraseSector_setpoint (s : State) : (eraseSector s).setpoint = s.setpoint := rfl
@[simp] theorem eraseSector_integral (s : State) : (eraseSector s).integral = s.integral := rfl
@[simp] theorem eraseSector_prevMeas (s : State) : (eraseSector s).prevMeas = s.prevMeas := rfl
@[simp] theorem eraseSector_interval (s : State) : (eraseSector s).interval = s.interval := rfl
@[simp] theorem eraseSector_lastUpdate (s : State) : (eraseSector s).lastUpdate = s.lastUpdate := rfl
@[simp] theorem eraseSector_nvs (s : State) : (eraseSector s).nvs = [] := rfl
@[simp] theorem eraseSector_nvsBusy (s : State) : (eraseSector s).nvsBusy = s.nvsBusy := rfl
@[simp] theorem eraseSector_trace (s : State) : (eraseSector s).trace = s.trace ++ [.erase] := rfl
@[simp] theorem eraseSector_ports (s : State) : (eraseSector s).ports = s.ports := rfl
@[simp] theorem eraseSector_env (s : State) : (eraseSector s).env = s.env := rfl
@[simp] theorem eraseSector_tick (s : State) : (eraseSector s).tick = s.tick := rfl
@[simp] theorem eraseSector_draws (s : State) : (eraseSector s).draws = s.draws := rfl
@[simp] theorem eraseSector_blinkNext (s : State) : (eraseSector s).blinkNext = s.blinkNext := rfl
@[simp] theorem eraseSector_ret (s : State) : (eraseSector s).ret = s.ret := rfl

/-! ## `storeSetpoint` -/

@[simp] theorem storeSetpoint_q (v : F32) (s : State) : (storeSetpoint v s).q = s.q := rfl
@[simp] theorem storeSetpoint_meas (v : F32) (s : State) : (storeSetpoint v s).meas = s.meas := rfl
@[simp] theorem storeSetpoint_op (v : F32) (s : State) : (storeSetpoint v s).op = s.op := rfl
@[simp] theorem storeSetpoint_pl (v : F32) (s : State) : (storeSetpoint v s).pl = s.pl := rfl
@[simp] theorem storeSetpoint_plc (v : F32) (s : State) : (storeSetpoint v s).plc = s.plc := rfl
@[simp] theorem storeSetpoint_rsi (v : F32) (s : State) : (storeSetpoint v s).rsi = s.rsi := rfl
@[simp] theorem storeSetpoint_pwmPeriod (v : F32) (s : State) :
    (storeSetpoint v s).pwmPeriod = s.pwmPeriod := rfl
@[simp] theorem storeSetpoint_pwmWidth (v : F32) (s : State) :
    (storeSetpoint v s).pwmWidth = s.pwmWidth := rfl
@[simp] theorem storeSetpoint_hvEnabled (v : F32) (s : State) :
    (storeSetpoint v s).hvEnabled = s.hvEnabled := rfl
@[simp] theorem storeSetpoint_indHazard (v : F32) (s : State) :
    (storeSetpoint v s).indHazard = s.indHazard := rfl
@[simp] theorem storeSetpoint_indSafe (v : F32) (s : State) : (storeSetpoint v s).indSafe = s.indSafe := rfl
@[simp] theorem storeSetpoint_ds (v : F32) (s : State) : (storeSetpoint v s).ds = s.ds := rfl
@[simp] theorem storeSetpoint_mlp (v : F32) (s : State) : (storeSetpoint v s).mlp = s.mlp := rfl
@[simp] theorem storeSetpoint_faulted (v : F32) (s : State) : (storeSetpoint v s).faulted = s.faulted := rfl
@[simp] theorem storeSetpoint_faultCause (v : F32) (s : State) :
    (storeSetpoint v s).faultCause = s.faultCause := rfl
@[simp] theorem storeSetpoint_kp (v : F32) (s : State) : (storeSetpoint v s).kp = s.kp := rfl
@[simp] theorem storeSetpoint_ki (v : F32) (s : State) : (storeSetpoint v s).ki = s.ki := rfl
@[simp] theorem storeSetpoint_kd (v : F32) (s : State) : (storeSetpoint v s).kd = s.kd := rfl
@[simp] theorem storeSetpoint_pLimit (v : F32) (s : State) : (storeSetpoint v s).pLimit = s.pLimit := rfl
@[simp] theorem storeSetpoint_iLimit (v : F32) (s : State) : (storeSetpoint v s).iLimit = s.iLimit := rfl
@[simp] theorem storeSetpoint_dLimit (v : F32) (s : State) : (storeSetpoint v s).dLimit = s.dLimit := rfl
@[simp] theorem storeSetpoint_outLimit (v : F32) (s : State) :
    (storeSetpoint v s).outLimit = s.outLimit := rfl
@[simp] theorem storeSetpoint_setpoint (v : F32) (s : State) : (storeSetpoint v s).setpoint = v := rfl
@[simp] theorem storeSetpoint_integral (v : F32) (s : State) : (storeSetpoint v s).integral = 0#32 := rfl
@[simp] theorem storeSetpoint_prevMeas (v : F32) (s : State) :
    (storeSetpoint v s).prevMeas = s.prevMeas := rfl
@[simp] theorem storeSetpoint_interval (v : F32) (s : State) :
    (storeSetpoint v s).interval = s.interval := rfl
@[simp] theorem storeSetpoint_lastUpdate (v : F32) (s : State) :
    (storeSetpoint v s).lastUpdate = s.lastUpdate := rfl
@[simp] theorem storeSetpoint_nvs (v : F32) (s : State) : (storeSetpoint v s).nvs = s.nvs := rfl
@[simp] theorem storeSetpoint_nvsBusy (v : F32) (s : State) : (storeSetpoint v s).nvsBusy = s.nvsBusy := rfl
@[simp] theorem storeSetpoint_trace (v : F32) (s : State) : (storeSetpoint v s).trace = s.trace := rfl
@[simp] theorem storeSetpoint_ports (v : F32) (s : State) : (storeSetpoint v s).ports = s.ports := rfl
@[simp] theorem storeSetpoint_env (v : F32) (s : State) : (storeSetpoint v s).env = s.env := rfl
@[simp] theorem storeSetpoint_tick (v : F32) (s : State) : (storeSetpoint v s).tick = s.tick := rfl
@[simp] theorem storeSetpoint_draws (v : F32) (s : State) : (storeSetpoint v s).draws = s.draws := rfl
@[simp] theorem storeSetpoint_blinkNext (v : F32) (s : State) :
    (storeSetpoint v s).blinkNext = s.blinkNext := rfl
@[simp] theorem storeSetpoint_ret (v : F32) (s : State) : (storeSetpoint v s).ret = s.ret := rfl

/-! ## `blink` -/

@[simp] theorem blink_q (s : State) : (blink s).q = s.q := rfl
@[simp] theorem blink_meas (s : State) : (blink s).meas = s.meas := rfl
@[simp] theorem blink_op (s : State) : (blink s).op = s.op := rfl
@[simp] theorem blink_pl (s : State) : (blink s).pl = s.pl := rfl
@[simp] theorem blink_plc (s : State) : (blink s).plc = s.plc := rfl
@[simp] theorem blink_rsi (s : State) : (blink s).rsi = s.rsi := rfl
@[simp] theorem blink_pwmPeriod (s : State) : (blink s).pwmPeriod = s.pwmPeriod := rfl
@[simp] theorem blink_pwmWidth (s : State) : (blink s).pwmWidth = s.pwmWidth := rfl
@[simp] theorem blink_hvEnabled (s : State) : (blink s).hvEnabled = s.hvEnabled := rfl
@[simp] theorem blink_indHazard (s : State) : (blink s).indHazard = blinkValue s := rfl
@[simp] theorem blink_indSafe (s : State) : (blink s).indSafe = s.indSafe := rfl
@[simp] theorem blink_ds (s : State) : (blink s).ds = s.ds := rfl
@[simp] theorem blink_mlp (s : State) : (blink s).mlp = s.mlp := rfl
@[simp] theorem blink_faulted (s : State) : (blink s).faulted = s.faulted := rfl
@[simp] theorem blink_faultCause (s : State) : (blink s).faultCause = s.faultCause := rfl
@[simp] theorem blink_kp (s : State) : (blink s).kp = s.kp := rfl
@[simp] theorem blink_ki (s : State) : (blink s).ki = s.ki := rfl
@[simp] theorem blink_kd (s : State) : (blink s).kd = s.kd := rfl
@[simp] theorem blink_pLimit (s : State) : (blink s).pLimit = s.pLimit := rfl
@[simp] theorem blink_iLimit (s : State) : (blink s).iLimit = s.iLimit := rfl
@[simp] theorem blink_dLimit (s : State) : (blink s).dLimit = s.dLimit := rfl
@[simp] theorem blink_outLimit (s : State) : (blink s).outLimit = s.outLimit := rfl
@[simp] theorem blink_setpoint (s : State) : (blink s).setpoint = s.setpoint := rfl
@[simp] theorem blink_integral (s : State) : (blink s).integral = s.integral := rfl
@[simp] theorem blink_prevMeas (s : State) : (blink s).prevMeas = s.prevMeas := rfl
@[simp] theorem blink_interval (s : State) : (blink s).interval = s.interval := rfl
@[simp] theorem blink_lastUpdate (s : State) : (blink s).lastUpdate = s.lastUpdate := rfl
@[simp] theorem blink_nvs (s : State) : (blink s).nvs = s.nvs := rfl
@[simp] theorem blink_nvsBusy (s : State) : (blink s).nvsBusy = s.nvsBusy := rfl
@[simp] theorem blink_trace (s : State) :
    (blink s).trace = s.trace ++ [.setIndicator .hazard (blinkValue s)] := rfl
@[simp] theorem blink_ports (s : State) : (blink s).ports = s.ports := rfl
@[simp] theorem blink_env (s : State) : (blink s).env = s.env := rfl
@[simp] theorem blink_tick (s : State) : (blink s).tick = s.tick := rfl
@[simp] theorem blink_draws (s : State) :
    (blink s).draws = if s.blinkNext.isNone then s.draws + 1 else s.draws := rfl
@[simp] theorem blink_blinkNext (s : State) : (blink s).blinkNext = some (!blinkValue s) := rfl
@[simp] theorem blink_ret (s : State) : (blink s).ret = s.ret := rfl

/-! ## `fatal` -/

@[simp] theorem fatal_q (c : FaultCause) (s : State) : (fatal c s).q = s.q := rfl
@[simp] theorem fatal_meas (c : FaultCause) (s : State) : (fatal c s).meas = s.meas := rfl
@[simp] theorem fatal_op (c : FaultCause) (s : State) : (fatal c s).op = s.op := rfl
@[simp] theorem fatal_pl (c : FaultCause) (s : State) : (fatal c s).pl = s.pl := rfl
@[simp] theorem fatal_plc (c : FaultCause) (s : State) : (fatal c s).plc = s.plc := rfl
@[simp] theorem fatal_rsi (c : FaultCause) (s : State) : (fatal c s).rsi = s.rsi := rfl
@[simp] theorem fatal_pwmPeriod (c : FaultCause) (s : State) : (fatal c s).pwmPeriod = s.pwmPeriod := rfl
@[simp] theorem fatal_pwmWidth (c : FaultCause) (s : State) : (fatal c s).pwmWidth = s.pwmWidth := rfl
@[simp] theorem fatal_hvEnabled (c : FaultCause) (s : State) : (fatal c s).hvEnabled = s.hvEnabled := rfl
@[simp] theorem fatal_indHazard (c : FaultCause) (s : State) : (fatal c s).indHazard = s.indHazard := rfl
@[simp] theorem fatal_indSafe (c : FaultCause) (s : State) : (fatal c s).indSafe = s.indSafe := rfl
@[simp] theorem fatal_ds (c : FaultCause) (s : State) : (fatal c s).ds = s.ds := rfl
@[simp] theorem fatal_mlp (c : FaultCause) (s : State) : (fatal c s).mlp = s.mlp := rfl
@[simp] theorem fatal_faulted (c : FaultCause) (s : State) : (fatal c s).faulted = true := rfl
@[simp] theorem fatal_faultCause (c : FaultCause) (s : State) :
    (fatal c s).faultCause = if s.faulted then s.faultCause else c := rfl
@[simp] theorem fatal_kp (c : FaultCause) (s : State) : (fatal c s).kp = s.kp := rfl
@[simp] theorem fatal_ki (c : FaultCause) (s : State) : (fatal c s).ki = s.ki := rfl
@[simp] theorem fatal_kd (c : FaultCause) (s : State) : (fatal c s).kd = s.kd := rfl
@[simp] theorem fatal_pLimit (c : FaultCause) (s : State) : (fatal c s).pLimit = s.pLimit := rfl
@[simp] theorem fatal_iLimit (c : FaultCause) (s : State) : (fatal c s).iLimit = s.iLimit := rfl
@[simp] theorem fatal_dLimit (c : FaultCause) (s : State) : (fatal c s).dLimit = s.dLimit := rfl
@[simp] theorem fatal_outLimit (c : FaultCause) (s : State) : (fatal c s).outLimit = s.outLimit := rfl
@[simp] theorem fatal_setpoint (c : FaultCause) (s : State) : (fatal c s).setpoint = s.setpoint := rfl
@[simp] theorem fatal_integral (c : FaultCause) (s : State) : (fatal c s).integral = s.integral := rfl
@[simp] theorem fatal_prevMeas (c : FaultCause) (s : State) : (fatal c s).prevMeas = s.prevMeas := rfl
@[simp] theorem fatal_interval (c : FaultCause) (s : State) : (fatal c s).interval = s.interval := rfl
@[simp] theorem fatal_lastUpdate (c : FaultCause) (s : State) : (fatal c s).lastUpdate = s.lastUpdate := rfl
@[simp] theorem fatal_nvs (c : FaultCause) (s : State) : (fatal c s).nvs = s.nvs := rfl
@[simp] theorem fatal_nvsBusy (c : FaultCause) (s : State) : (fatal c s).nvsBusy = s.nvsBusy := rfl
@[simp] theorem fatal_trace (c : FaultCause) (s : State) : (fatal c s).trace = s.trace := rfl
@[simp] theorem fatal_ports (c : FaultCause) (s : State) : (fatal c s).ports = s.ports := rfl
@[simp] theorem fatal_env (c : FaultCause) (s : State) : (fatal c s).env = s.env := rfl
@[simp] theorem fatal_tick (c : FaultCause) (s : State) : (fatal c s).tick = s.tick := rfl
@[simp] theorem fatal_draws (c : FaultCause) (s : State) : (fatal c s).draws = s.draws := rfl
@[simp] theorem fatal_blinkNext (c : FaultCause) (s : State) : (fatal c s).blinkNext = s.blinkNext := rfl
@[simp] theorem fatal_ret (c : FaultCause) (s : State) : (fatal c s).ret = s.ret := rfl

/-! ## `withMove` -/

@[simp] theorem withMove_q (s : State) : (withMove s).q = s.q := rfl
@[simp] theorem withMove_meas (s : State) : (withMove s).meas = s.meas := rfl
@[simp] theorem withMove_op (s : State) : (withMove s).op = s.op := rfl
@[simp] theorem withMove_pl (s : State) : (withMove s).pl = s.pl := rfl
@[simp] theorem withMove_plc (s : State) : (withMove s).plc = s.plc := rfl
@[simp] theorem withMove_rsi (s : State) : (withMove s).rsi = s.rsi := rfl
@[simp] theorem withMove_pwmPeriod (s : State) : (withMove s).pwmPeriod = s.pwmPeriod := rfl
@[simp] theorem withMove_pwmWidth (s : State) : (withMove s).pwmWidth = s.pwmWidth := rfl
@[simp] theorem withMove_hvEnabled (s : State) : (withMove s).hvEnabled = s.hvEnabled := rfl
@[simp] theorem withMove_indHazard (s : State) : (withMove s).indHazard = s.indHazard := rfl
@[simp] theorem withMove_indSafe (s : State) : (withMove s).indSafe = s.indSafe := rfl
@[simp] theorem withMove_ds (s : State) : (withMove s).ds = s.ds := rfl
@[simp] theorem withMove_mlp (s : State) : (withMove s).mlp = s.mlp := rfl
@[simp] theorem withMove_faulted (s : State) : (withMove s).faulted = s.faulted := rfl
@[simp] theorem withMove_faultCause (s : State) : (withMove s).faultCause = s.faultCause := rfl
@[simp] theorem withMove_kp (s : State) : (withMove s).kp = s.kp := rfl
@[simp] theorem withMove_ki (s : State) : (withMove s).ki = s.ki := rfl
@[simp] theorem withMove_kd (s : State) : (withMove s).kd = s.kd := rfl
@[simp] theorem withMove_pLimit (s : State) : (withMove s).pLimit = s.pLimit := rfl
@[simp] theorem withMove_iLimit (s : State) : (withMove s).iLimit = s.iLimit := rfl
@[simp] theorem withMove_dLimit (s : State) : (withMove s).dLimit = s.dLimit := rfl
@[simp] theorem withMove_outLimit (s : State) : (withMove s).outLimit = s.outLimit := rfl
@[simp] theorem withMove_setpoint (s : State) : (withMove s).setpoint = s.setpoint := rfl
@[simp] theorem withMove_integral (s : State) : (withMove s).integral = s.integral := rfl
@[simp] theorem withMove_prevMeas (s : State) : (withMove s).prevMeas = s.prevMeas := rfl
@[simp] theorem withMove_interval (s : State) : (withMove s).interval = s.interval := rfl
@[simp] theorem withMove_lastUpdate (s : State) : (withMove s).lastUpdate = s.lastUpdate := rfl
@[simp] theorem withMove_nvs (s : State) : (withMove s).nvs = s.nvs := rfl
@[simp] theorem withMove_nvsBusy (s : State) : (withMove s).nvsBusy = s.nvsBusy := rfl
@[simp] theorem withMove_trace (s : State) : (withMove s).trace = s.trace := rfl
@[simp] theorem withMove_ports (s : State) : (withMove s).ports = (nextMove s).ports := rfl
@[simp] theorem withMove_env (s : State) : (withMove s).env = s.env.tail := rfl
@[simp] theorem withMove_tick (s : State) :
    (withMove s).tick = if s.env.isEmpty then s.tick + 1 else s.tick := rfl
@[simp] theorem withMove_draws (s : State) : (withMove s).draws = s.draws := rfl
@[simp] theorem withMove_blinkNext (s : State) : (withMove s).blinkNext = s.blinkNext := rfl
@[simp] theorem withMove_ret (s : State) : (withMove s).ret = s.ret := rfl

/-! ## The control step -/

@[simp] theorem controlStepWith_q (law : LawInput → LawOutput) (m : U16) (now : U64) (s : State) :
    (controlStepWith law m now s).2.q = s.q := rfl
@[simp] theorem controlStepWith_meas (law : LawInput → LawOutput) (m : U16) (now : U64) (s : State) :
    (controlStepWith law m now s).2.meas = s.meas := rfl
@[simp] theorem controlStepWith_op (law : LawInput → LawOutput) (m : U16) (now : U64) (s : State) :
    (controlStepWith law m now s).2.op = s.op := rfl
@[simp] theorem controlStepWith_pl (law : LawInput → LawOutput) (m : U16) (now : U64) (s : State) :
    (controlStepWith law m now s).2.pl = s.pl := rfl
@[simp] theorem controlStepWith_plc (law : LawInput → LawOutput) (m : U16) (now : U64) (s : State) :
    (controlStepWith law m now s).2.plc = s.plc := rfl
@[simp] theorem controlStepWith_rsi (law : LawInput → LawOutput) (m : U16) (now : U64) (s : State) :
    (controlStepWith law m now s).2.rsi = s.rsi := rfl
@[simp] theorem controlStepWith_pwmPeriod (law : LawInput → LawOutput) (m : U16) (now : U64) (s : State) :
    (controlStepWith law m now s).2.pwmPeriod = s.pwmPeriod := rfl
@[simp] theorem controlStepWith_pwmWidth (law : LawInput → LawOutput) (m : U16) (now : U64) (s : State) :
    (controlStepWith law m now s).2.pwmWidth = s.pwmWidth := rfl
@[simp] theorem controlStepWith_hvEnabled (law : LawInput → LawOutput) (m : U16) (now : U64) (s : State) :
    (controlStepWith law m now s).2.hvEnabled = s.hvEnabled := rfl
@[simp] theorem controlStepWith_indHazard (law : LawInput → LawOutput) (m : U16) (now : U64) (s : State) :
    (controlStepWith law m now s).2.indHazard = s.indHazard := rfl
@[simp] theorem controlStepWith_indSafe (law : LawInput → LawOutput) (m : U16) (now : U64) (s : State) :
    (controlStepWith law m now s).2.indSafe = s.indSafe := rfl
@[simp] theorem controlStepWith_ds (law : LawInput → LawOutput) (m : U16) (now : U64) (s : State) :
    (controlStepWith law m now s).2.ds = s.ds := rfl
@[simp] theorem controlStepWith_mlp (law : LawInput → LawOutput) (m : U16) (now : U64) (s : State) :
    (controlStepWith law m now s).2.mlp = s.mlp := rfl
@[simp] theorem controlStepWith_faulted (law : LawInput → LawOutput) (m : U16) (now : U64) (s : State) :
    (controlStepWith law m now s).2.faulted = s.faulted := rfl
@[simp] theorem controlStepWith_faultCause (law : LawInput → LawOutput) (m : U16) (now : U64) (s : State) :
    (controlStepWith law m now s).2.faultCause = s.faultCause := rfl
@[simp] theorem controlStepWith_kp (law : LawInput → LawOutput) (m : U16) (now : U64) (s : State) :
    (controlStepWith law m now s).2.kp = s.kp := rfl
@[simp] theorem controlStepWith_ki (law : LawInput → LawOutput) (m : U16) (now : U64) (s : State) :
    (controlStepWith law m now s).2.ki = s.ki := rfl
@[simp] theorem controlStepWith_kd (law : LawInput → LawOutput) (m : U16) (now : U64) (s : State) :
    (controlStepWith law m now s).2.kd = s.kd := rfl
@[simp] theorem controlStepWith_pLimit (law : LawInput → LawOutput) (m : U16) (now : U64) (s : State) :
    (controlStepWith law m now s).2.pLimit = s.pLimit := rfl
@[simp] theorem controlStepWith_iLimit (law : LawInput → LawOutput) (m : U16) (now : U64) (s : State) :
    (controlStepWith law m now s).2.iLimit = s.iLimit := rfl
@[simp] theorem controlStepWith_dLimit (law : LawInput → LawOutput) (m : U16) (now : U64) (s : State) :
    (controlStepWith law m now s).2.dLimit = s.dLimit := rfl
@[simp] theorem controlStepWith_outLimit (law : LawInput → LawOutput) (m : U16) (now : U64) (s : State) :
    (controlStepWith law m now s).2.outLimit = s.outLimit := rfl
@[simp] theorem controlStepWith_setpoint (law : LawInput → LawOutput) (m : U16) (now : U64) (s : State) :
    (controlStepWith law m now s).2.setpoint = s.setpoint := rfl
@[simp] theorem controlStepWith_integral (law : LawInput → LawOutput) (m : U16) (now : U64) (s : State) :
    (controlStepWith law m now s).2.integral = (law (lawInput m s)).integral := rfl
@[simp] theorem controlStepWith_prevMeas (law : LawInput → LawOutput) (m : U16) (now : U64) (s : State) :
    (controlStepWith law m now s).2.prevMeas = (law (lawInput m s)).prevMeas := rfl
@[simp] theorem controlStepWith_interval (law : LawInput → LawOutput) (m : U16) (now : U64) (s : State) :
    (controlStepWith law m now s).2.interval = s.interval := rfl
@[simp] theorem controlStepWith_lastUpdate (law : LawInput → LawOutput) (m : U16) (now : U64) (s : State) :
    (controlStepWith law m now s).2.lastUpdate = now := rfl
@[simp] theorem controlStepWith_nvs (law : LawInput → LawOutput) (m : U16) (now : U64) (s : State) :
    (controlStepWith law m now s).2.nvs = s.nvs := rfl
@[simp] theorem controlStepWith_nvsBusy (law : LawInput → LawOutput) (m : U16) (now : U64) (s : State) :
    (controlStepWith law m now s).2.nvsBusy = s.nvsBusy := rfl
@[simp] theorem controlStepWith_trace (law : LawInput → LawOutput) (m : U16) (now : U64) (s : State) :
    (controlStepWith law m now s).2.trace = s.trace := rfl
@[simp] theorem controlStepWith_ports (law : LawInput → LawOutput) (m : U16) (now : U64) (s : State) :
    (controlStepWith law m now s).2.ports = s.ports := rfl
@[simp] theorem controlStepWith_env (law : LawInput → LawOutput) (m : U16) (now : U64) (s : State) :
    (controlStepWith law m now s).2.env = s.env := rfl
@[simp] theorem controlStepWith_tick (law : LawInput → LawOutput) (m : U16) (now : U64) (s : State) :
    (controlStepWith law m now s).2.tick = s.tick := rfl
@[simp] theorem controlStepWith_draws (law : LawInput → LawOutput) (m : U16) (now : U64) (s : State) :
    (controlStepWith law m now s).2.draws = if f32IsNaN (law (lawInput m s)).raw then s.draws + 1 else s.draws := rfl
@[simp] theorem controlStepWith_blinkNext (law : LawInput → LawOutput) (m : U16) (now : U64) (s : State) :
    (controlStepWith law m now s).2.blinkNext = s.blinkNext := rfl
@[simp] theorem controlStepWith_ret (law : LawInput → LawOutput) (m : U16) (now : U64) (s : State) :
    (controlStepWith law m now s).2.ret = s.ret := rfl

/-! ## `controllerDefaults` -/

@[simp] theorem controllerDefaults_q (s : State) : (controllerDefaults s).q = s.q := rfl
@[simp] theorem controllerDefaults_meas (s : State) : (controllerDefaults s).meas = s.meas := rfl
@[simp] theorem controllerDefaults_op (s : State) : (controllerDefaults s).op = s.op := rfl
@[simp] theorem controllerDefaults_pl (s : State) : (controllerDefaults s).pl = s.pl := rfl
@[simp] theorem controllerDefaults_plc (s : State) : (controllerDefaults s).plc = s.plc := rfl
@[simp] theorem controllerDefaults_rsi (s : State) : (controllerDefaults s).rsi = s.rsi := rfl
@[simp] theorem controllerDefaults_pwmPeriod (s : State) :
    (controllerDefaults s).pwmPeriod = s.pwmPeriod := rfl
@[simp] theorem controllerDefaults_pwmWidth (s : State) : (controllerDefaults s).pwmWidth = s.pwmWidth := rfl
@[simp] theorem controllerDefaults_hvEnabled (s : State) :
    (controllerDefaults s).hvEnabled = s.hvEnabled := rfl
@[simp] theorem controllerDefaults_indHazard (s : State) :
    (controllerDefaults s).indHazard = s.indHazard := rfl
@[simp] theorem controllerDefaults_indSafe (s : State) : (controllerDefaults s).indSafe = s.indSafe := rfl
@[simp] theorem controllerDefaults_ds (s : State) : (controllerDefaults s).ds = s.ds := rfl
@[simp] theorem controllerDefaults_mlp (s : State) : (controllerDefaults s).mlp = s.mlp := rfl
@[simp] theorem controllerDefaults_faulted (s : State) : (controllerDefaults s).faulted = s.faulted := rfl
@[simp] theorem controllerDefaults_faultCause (s : State) :
    (controllerDefaults s).faultCause = s.faultCause := rfl
@[simp] theorem controllerDefaults_kp (s : State) : (controllerDefaults s).kp = Config.kpDefault := rfl
@[simp] theorem controllerDefaults_ki (s : State) : (controllerDefaults s).ki = Config.kiDefault := rfl
@[simp] theorem controllerDefaults_kd (s : State) : (controllerDefaults s).kd = Config.kdDefault := rfl
@[simp] theorem controllerDefaults_pLimit (s : State) : (controllerDefaults s).pLimit = Config.limit := rfl
@[simp] theorem controllerDefaults_iLimit (s : State) : (controllerDefaults s).iLimit = Config.limit := rfl
@[simp] theorem controllerDefaults_dLimit (s : State) : (controllerDefaults s).dLimit = Config.limit := rfl
@[simp] theorem controllerDefaults_outLimit (s : State) :
    (controllerDefaults s).outLimit = Config.limit := rfl
@[simp] theorem controllerDefaults_setpoint (s : State) :
    (controllerDefaults s).setpoint = Config.setpointDefault := rfl
@[simp] theorem controllerDefaults_integral (s : State) : (controllerDefaults s).integral = 0#32 := rfl
@[simp] theorem controllerDefaults_prevMeas (s : State) : (controllerDefaults s).prevMeas = none := rfl
@[simp] theorem controllerDefaults_interval (s : State) :
    (controllerDefaults s).interval = Config.ctrlIntervalDefault := rfl
@[simp] theorem controllerDefaults_lastUpdate (s : State) : (controllerDefaults s).lastUpdate = 0#64 := rfl
@[simp] theorem controllerDefaults_nvs (s : State) : (controllerDefaults s).nvs = s.nvs := rfl
@[simp] theorem controllerDefaults_nvsBusy (s : State) : (controllerDefaults s).nvsBusy = s.nvsBusy := rfl
@[simp] theorem controllerDefaults_trace (s : State) : (controllerDefaults s).trace = s.trace := rfl
@[simp] theorem controllerDefaults_ports (s : State) : (controllerDefaults s).ports = s.ports := rfl
@[simp] theorem controllerDefaults_env (s : State) : (controllerDefaults s).env = s.env := rfl
@[simp] theorem controllerDefaults_tick (s : State) : (controllerDefaults s).tick = s.tick := rfl
@[simp] theorem controllerDefaults_draws (s : State) : (controllerDefaults s).draws = s.draws := rfl
@[simp] theorem controllerDefaults_blinkNext (s : State) :
    (controllerDefaults s).blinkNext = s.blinkNext := rfl
@[simp] theorem controllerDefaults_ret (s : State) : (controllerDefaults s).ret = s.ret := rfl

/-! ## `restoreController`: everything but the gains and the interval -/

@[simp] theorem restoreController_q (s : State) :
    (restoreController s).q = s.q := by unfold restoreController; split <;> rfl
@[simp] theorem restoreController_meas (s : State) :
    (restoreController s).meas = s.meas := by unfold restoreController; split <;> rfl
@[simp] theorem restoreController_op (s : State) :
    (restoreController s).op = s.op := by unfold restoreController; split <;> rfl
@[simp] theorem restoreController_pl (s : State) :
    (restoreController s).pl = s.pl := by unfold restoreController; split <;> rfl
@[simp] theorem restoreController_plc (s : State) :
    (restoreController s).plc = s.plc := by unfold restoreController; split <;> rfl
@[simp] theorem restoreController_rsi (s : State) :
    (restoreController s).rsi = s.rsi := by unfold restoreController; split <;> rfl
@[simp] theorem restoreController_pwmPeriod (s : State) :
    (restoreController s).pwmPeriod = s.pwmPeriod := by unfold restoreController; split <;> rfl
@[simp] theorem restoreController_pwmWidth (s : State) :
    (restoreController s).pwmWidth = s.pwmWidth := by unfold restoreController; split <;> rfl
@[simp] theorem restoreController_hvEnabled (s : State) :
    (restoreController s).hvEnabled = s.hvEnabled := by unfold restoreController; split <;> rfl
@[simp] theorem restoreController_indHazard (s : State) :
    (restoreController s).indHazard = s.indHazard := by unfold restoreController; split <;> rfl
@[simp] theorem restoreController_indSafe (s : State) :
    (restoreController s).indSafe = s.indSafe := by unfold restoreController; split <;> rfl
@[simp] theorem restoreController_ds (s : State) :
    (restoreController s).ds = s.ds := by unfold restoreController; split <;> rfl
@[simp] theorem restoreController_mlp (s : State) :
    (restoreController s).mlp = s.mlp := by unfold restoreController; split <;> rfl
@[simp] theorem restoreController_faulted (s : State) :
    (restoreController s).faulted = s.faulted := by unfold restoreController; split <;> rfl
@[simp] theorem restoreController_faultCause (s : State) :
    (restoreController s).faultCause = s.faultCause := by unfold restoreController; split <;> rfl
@[simp] theorem restoreController_pLimit (s : State) :
    (restoreController s).pLimit = s.pLimit := by unfold restoreController; split <;> rfl
@[simp] theorem restoreController_iLimit (s : State) :
    (restoreController s).iLimit = s.iLimit := by unfold restoreController; split <;> rfl
@[simp] theorem restoreController_dLimit (s : State) :
    (restoreController s).dLimit = s.dLimit := by unfold restoreController; split <;> rfl
@[simp] theorem restoreController_outLimit (s : State) :
    (restoreController s).outLimit = s.outLimit := by unfold restoreController; split <;> rfl
@[simp] theorem restoreController_setpoint (s : State) :
    (restoreController s).setpoint = s.setpoint := by unfold restoreController; split <;> rfl
@[simp] theorem restoreController_integral (s : State) :
    (restoreController s).integral = s.integral := by unfold restoreController; split <;> rfl
@[simp] theorem restoreController_prevMeas (s : State) :
    (restoreController s).prevMeas = s.prevMeas := by unfold restoreController; split <;> rfl
@[simp] theorem restoreController_lastUpdate (s : State) :
    (restoreController s).lastUpdate = s.lastUpdate := by unfold restoreController; split <;> rfl
@[simp] theorem restoreController_nvs (s : State) :
    (restoreController s).nvs = s.nvs := by unfold restoreController; split <;> rfl
@[simp] theorem restoreController_nvsBusy (s : State) :
    (restoreController s).nvsBusy = s.nvsBusy := by unfold restoreController; split <;> rfl
@[simp] theorem restoreController_trace (s : State) :
    (restoreController s).trace = s.trace := by unfold restoreController; split <;> rfl
@[simp] theorem restoreController_ports (s : State) :
    (restoreController s).ports = s.ports := by unfold restoreController; split <;> rfl
@[simp] theorem restoreController_env (s : State) :
    (restoreController s).env = s.env := by unfold restoreController; split <;> rfl
@[simp] theorem restoreController_tick (s : State) :
    (restoreController s).tick = s.tick := by unfold restoreController; split <;> rfl
@[simp] theorem restoreController_draws (s : State) :
    (restoreController s).draws = s.draws := by unfold restoreController; split <;> rfl
@[simp] theorem restoreController_blinkNext (s : State) :
    (restoreController s).blinkNext = s.blinkNext := by unfold restoreController; split <;> rfl
@[simp] theorem restoreController_ret (s : State) :
    (restoreController s).ret = s.ret := by unfold restoreController; split <;> rfl

/-! ## `clearForReset`: everything but the registers left free -/

@[simp] theorem clearForReset_q (s : State) : (clearForReset s).q = [] := rfl
@[simp] theorem clearForReset_plc (s : State) : (clearForReset s).plc = 0 := rfl
@[simp] theorem clearForReset_rsi (s : State) : (clearForReset s).rsi = 0 := rfl
@[simp] theorem clearForReset_hvEnabled (s : State) : (clearForReset s).hvEnabled = false := rfl
@[simp] theorem clearForReset_ds (s : State) : (clearForReset s).ds = .waitOpcode := rfl
@[simp] theorem clearForReset_mlp (s : State) : (clearForReset s).mlp = .p0Local := rfl
@[simp] theorem clearForReset_faulted (s : State) : (clearForReset s).faulted = false := rfl
@[simp] theorem clearForReset_faultCause (s : State) : (clearForReset s).faultCause = .none := rfl
@[simp] theorem clearForReset_kp (s : State) : (clearForReset s).kp = s.kp := rfl
@[simp] theorem clearForReset_ki (s : State) : (clearForReset s).ki = s.ki := rfl
@[simp] theorem clearForReset_kd (s : State) : (clearForReset s).kd = s.kd := rfl
@[simp] theorem clearForReset_pLimit (s : State) : (clearForReset s).pLimit = s.pLimit := rfl
@[simp] theorem clearForReset_iLimit (s : State) : (clearForReset s).iLimit = s.iLimit := rfl
@[simp] theorem clearForReset_dLimit (s : State) : (clearForReset s).dLimit = s.dLimit := rfl
@[simp] theorem clearForReset_outLimit (s : State) : (clearForReset s).outLimit = s.outLimit := rfl
@[simp] theorem clearForReset_setpoint (s : State) : (clearForReset s).setpoint = s.setpoint := rfl
@[simp] theorem clearForReset_integral (s : State) : (clearForReset s).integral = s.integral := rfl
@[simp] theorem clearForReset_prevMeas (s : State) : (clearForReset s).prevMeas = s.prevMeas := rfl
@[simp] theorem clearForReset_interval (s : State) : (clearForReset s).interval = s.interval := rfl
@[simp] theorem clearForReset_lastUpdate (s : State) : (clearForReset s).lastUpdate = s.lastUpdate := rfl
@[simp] theorem clearForReset_nvs (s : State) : (clearForReset s).nvs = s.nvs := rfl
@[simp] theorem clearForReset_nvsBusy (s : State) : (clearForReset s).nvsBusy = .idle := rfl
@[simp] theorem clearForReset_trace (s : State) : (clearForReset s).trace = s.trace := rfl
@[simp] theorem clearForReset_ports (s : State) : (clearForReset s).ports = s.ports := rfl
@[simp] theorem clearForReset_env (s : State) : (clearForReset s).env = s.env := rfl
@[simp] theorem clearForReset_tick (s : State) : (clearForReset s).tick = s.tick := rfl
@[simp] theorem clearForReset_draws (s : State) : (clearForReset s).draws = s.draws + 1 := rfl
@[simp] theorem clearForReset_blinkNext (s : State) : (clearForReset s).blinkNext = none := rfl
@[simp] theorem clearForReset_ret (s : State) : (clearForReset s).ret = .none := rfl

end Sys2Proof.Machine
end

