-- ==== Sys2Proof/Laws/Ops.lean ====
section
/-! SUPPORT. What each shared operation can do, said once: proofs cite these instead of unfolding the
operations. -/

namespace Sys2Proof.Machine

/-! ## Results -/

@[simp] theorem andThen_next (s : State) (k : State → Result) : andThen (.next s) k = k s := rfl

theorem andThen_eq_next {r : Result} {k : State → Result} {t : State} :
    andThen r k = .next t ↔ ∃ s, r = .next s ∧ k s = .next t := by
  cases r <;> simp [andThen]

theorem whenLive_of_faulted {s : State} (k : Result) (h : s.faulted = true) :
    whenLive s k = .next s := by simp [whenLive, h]

theorem whenLive_of_live {s : State} (k : Result) (h : s.faulted = false) : whenLive s k = k := by
  simp [whenLive, h]

/-- Faulted and unchanged, or live and the operation performed. -/
theorem whenLive_eq_next {s t : State} {k : Result} (h : whenLive s k = .next t) :
    (s.faulted = true ∧ t = s) ∨ (s.faulted = false ∧ k = .next t) := by
  cases hf : s.faulted with
  | true => rw [whenLive_of_faulted k hf] at h; exact .inl ⟨rfl, by injection h with h; exact h.symm⟩
  | false => rw [whenLive_of_live k hf] at h; exact .inr ⟨rfl, h⟩

/-! ## The queue -/

theorem qPush_eq_some {b : Byte} {s t : State} (h : qPush b s = some t) :
    s.q.length ≠ Config.queueCapacity ∧ t = { s with q := s.q ++ [b] } := by
  unfold qPush queueFull at h
  split at h
  · cases h
  · next hf => exact ⟨by simpa using hf, by simpa using h.symm⟩

theorem qPush_eq_none {b : Byte} {s : State} (h : qPush b s = none) :
    s.q.length = Config.queueCapacity := by
  unfold qPush queueFull at h
  split at h
  · next hf => simpa using hf
  · cases h

theorem qPop_eq_some {s t : State} {b : Byte} (h : qPop s = some (b, t)) :
    ∃ rest, s.q = b :: rest ∧ t = { s with q := rest } := by
  unfold qPop at h
  split at h
  · cases h
  · next c rest hq =>
    simp only [Option.some.injEq, Prod.mk.injEq] at h
    exact ⟨rest, by rw [hq, h.1], h.2.symm⟩

theorem qPop_eq_none {s : State} : qPop s = none ↔ s.q = [] := by
  unfold qPop; split <;> simp_all

theorem qPop_cons {s : State} {b : Byte} {rest : List Byte} (h : s.q = b :: rest) :
    qPop s = some (b, { s with q := rest }) := by
  unfold qPop; simp [h]

/-! ## The sector -/

/-- A program pass runs on an erased sector only. -/
theorem programSector_eq_next {w : RecordWords} {s t : State} (h : programSector w s = .next t) :
    nvsErased s.nvs = true ∧ t = emit (.program w) { s with nvs := nvsProgram s.nvs w } := by
  unfold programSector at h
  split at h
  · next he => exact ⟨he, by injection h with h; exact h.symm⟩
  · cases h

theorem programSector_erased (w : RecordWords) {s : State} (h : nvsErased s.nvs = true) :
    programSector w s = .next (emit (.program w) { s with nvs := nvsProgram s.nvs w }) := by
  simp [programSector, h]

/-- A record write is at its erase, or at its program step on an erased sector. -/
theorem writeRecordStep_eq_next {r : Record} {s t : State} (h : writeRecordStep r s = .next t) :
    (s.nvsBusy = .idle ∧ t = { eraseSector s with nvsBusy := .erasedPendingProgram })
    ∨ (s.nvsBusy = .erasedPendingProgram ∧ nvsErased s.nvs = true
      ∧ t = { emit (.program (formatRecord r)) { s with nvs := nvsProgram s.nvs (formatRecord r) } with
          nvsBusy := .idle }) := by
  unfold writeRecordStep at h
  split at h
  · next hb => exact .inl ⟨hb, by injection h with h; exact h.symm⟩
  · next hb =>
    obtain ⟨u, hu, ht⟩ := andThen_eq_next.mp h
    obtain ⟨he, rfl⟩ := programSector_eq_next hu
    exact .inr ⟨hb, he, by injection ht with ht; exact ht.symm⟩

theorem intervalOf_split (t : U64) : intervalOf (intervalHi t) (intervalLo t) = t := by
  apply BitVec.eq_of_toNat_eq
  simp only [intervalOf, intervalHi, intervalLo, BitVec.toNat_or, BitVec.toNat_shiftLeft,
    BitVec.toNat_setWidth, BitVec.toNat_ushiftRight, BitVec.truncate_eq_setWidth]
  have ht := t.isLt
  rw [Nat.shiftRight_eq_div_pow, Nat.shiftLeft_eq, Nat.mod_eq_of_lt (a := t.toNat / 2 ^ 32) (by omega),
    Nat.mod_eq_of_lt (a := t.toNat / 2 ^ 32) (by omega),
    Nat.mod_eq_of_lt (a := t.toNat / 2 ^ 32 * 2 ^ 32) (by omega),
    Nat.mod_eq_of_lt (a := t.toNat % 2 ^ 32) (by omega), Nat.mul_comm,
    ← Nat.two_pow_add_eq_or_of_lt (by omega)]
  omega

theorem intervalOf_toNat (hi lo : U32) : (intervalOf hi lo).toNat = hi.toNat * 4294967296 + lo.toNat := by
  simp only [intervalOf, BitVec.toNat_or, BitVec.toNat_shiftLeft, BitVec.toNat_setWidth,
    BitVec.zeroExtend_eq_setWidth]
  have hh := hi.isLt
  have hl := lo.isLt
  rw [Nat.shiftLeft_eq, Nat.mod_eq_of_lt (a := hi.toNat) (by omega),
    Nat.mod_eq_of_lt (a := hi.toNat * 2 ^ 32) (by omega), Nat.mod_eq_of_lt (a := lo.toNat) (by omega),
    Nat.mul_comm, ← Nat.two_pow_add_eq_or_of_lt (by omega)]

theorem nvsRead_restoreController (s : State) (i : Nat) :
    nvsRead (restoreController s).nvs i = nvsRead s.nvs i := by simp

/-! ## The response step -/

/-- A response step is past the end and does nothing, or sends `resp[rsi]` and is the last, or sends it
and is not the last. -/
theorem respondByte_eq_next {resp : List Byte} {s t : State} (h : respondByte resp s = .next t) :
    (resp[s.rsi]? = none ∧ t = s)
    ∨ ∃ b, resp[s.rsi]? = some b ∧
      ((s.rsi + 1 = resp.length ∧
          t = emit (.tx b) { s with rsi := s.rsi + 1, ds := .waitOpcode, mlp := .p4Supervise })
        ∨ (s.rsi + 1 ≠ resp.length ∧ t = emit (.tx b) { s with rsi := s.rsi + 1 })) := by
  unfold respondByte at h
  split at h
  · next hn => exact .inl ⟨hn, by injection h with h; exact h.symm⟩
  · next b hb =>
    refine .inr ⟨b, hb, ?_⟩
    split at h
    · next hl => exact .inl ⟨hl, by injection h with h; exact h.symm⟩
    · next hl => exact .inr ⟨hl, by injection h with h; exact h.symm⟩

/-- A command that answers a next state was not enabled and did nothing, or was executed, or sent a
response byte. -/
theorem commandStep_eq_next {ex : State → Result} {resp : List Byte} {s t : State}
    (h : commandStep ex resp s = .next t) :
    t = s ∨ (s.faulted = false ∧ s.ds = .execute ∧ ex s = .next t)
    ∨ (s.faulted = false ∧ s.ds = .respond ∧ respondByte resp s = .next t) := by
  obtain ⟨-, rfl⟩ | ⟨hf, h⟩ := whenLive_eq_next h
  · exact .inl rfl
  · split at h
    · next hd => exact .inr (.inl ⟨hf, hd, h⟩)
    · next hd => exact .inr (.inr ⟨hf, hd, h⟩)
    · exact .inl (by injection h with h; exact h.symm)
    · exact .inl (by injection h with h; exact h.symm)

theorem commandStep_execute {ex : State → Result} {resp : List Byte} {s : State}
    (hf : s.faulted = false) (hd : s.ds = .execute) : commandStep ex resp s = ex s := by
  simp [commandStep, whenLive, hf, hd]

theorem commandStep_respond {ex : State → Result} {resp : List Byte} {s : State}
    (hf : s.faulted = false) (hd : s.ds = .respond) : commandStep ex resp s = respondByte resp s := by
  simp [commandStep, whenLive, hf, hd]

/-! ## Local requests -/

/-- A one-step request is no event, or is taken in P0 and ML goes to P1. -/
theorem takeRequest_eq_next {k : State → State} {s t : State} (h : takeRequest s k = .next t) :
    t = s ∨ (s.faulted = false ∧ s.mlp = .p0Local ∧ s.nvsBusy = .idle
      ∧ t = { k s with mlp := .p1Sample }) := by
  obtain ⟨-, rfl⟩ | ⟨hf, h⟩ := whenLive_eq_next h
  · exact .inl rfl
  · split at h
    · next hp =>
      simp only [inLocalPhase, Bool.and_eq_true, beq_iff_eq] at hp
      exact .inr ⟨hf, hp.1, hp.2, by injection h with h; exact h.symm⟩
    · exact .inl (by injection h with h; exact h.symm)

/-! ## Who moves -/

theorem withMove_scripted {s : State} {m : Move} {later : List Move} (h : s.env = m :: later) :
    withMove s = { s with env := later, ports := m.ports } := by
  simp [withMove, nextMove, h]

theorem blockStep_scripted {s : State} {m : Move} {later : List Move} (h : s.env = m :: later) :
    blockStep s = perform m.mover { s with env := later, ports := m.ports } := by
  rw [blockStep, withMove_scripted h]; simp [nextMove, h]

theorem mlStep_faulted {s : State} (h : s.faulted = true) : mlStep s = .next (blink s) := by
  simp [mlStep, h]

/-- A decoded frame of the latches is the instruction the sequencer runs. -/
theorem decode_latches (s : State) :
    decode [s.op, s.pl.b0, s.pl.b1, s.pl.b2, s.pl.b3] =
      .ok (latchedInstr s, [s.pl.b0, s.pl.b1, s.pl.b2, s.pl.b3].drop (npl s.op)) := by
  have h : npl s.op ≤ 4 := by unfold npl; split_ifs <;> omega
  simp [decode, latchedInstr, Nat.not_lt.mpr h]

end Sys2Proof.Machine
end

