-- ==== Sys2Proof/Laws/PerInstr.lean ====
section
/-! SUPPORT. Facts about each instruction as syntax, one lemma per constructor. `FrameShape`: only a
command has a frame, and the frame of a well-formed command is an opcode and as many payload bytes as
30_encoding R87 gives that opcode. -/

namespace Sys2Proof.Laws

/-- The frame of a well-formed instruction, if it has one, is an opcode and its payload (R87). -/
def FrameShape.Statement (i : Instr) : Prop :=
  i.wellFormed = true → ((encode i).isSome = i.isCommand) ∧
    ∀ frame, encode i = some frame → ∃ op payload, frame = op :: payload ∧ payload.length = npl op

/-- An undefined opcode has no payload (R86). -/
theorem npl_undefined {op : Byte} (h : definedOpcode op = false) : npl op = 0 := by
  simp only [definedOpcode, Bool.or_eq_false_iff, beq_eq_false_iff_ne] at h
  rw [npl, if_neg h.1.1.1, if_neg h.1.1.2, if_neg h.1.2, if_neg h.2]

theorem FrameShape.hvEnable (en : Byte) : FrameShape.Statement (.hvEnable en) := by
  intro _
  exact ⟨rfl, fun frame hf => ⟨_, _, by simpa [encode] using hf.symm, rfl⟩⟩

theorem FrameShape.getMeas : FrameShape.Statement .getMeas := by
  intro _
  exact ⟨rfl, fun frame hf => ⟨_, _, by simpa [encode] using hf.symm, rfl⟩⟩

theorem FrameShape.setPwm (period : U16) (width : U16) : FrameShape.Statement (.setPwm period width) := by
  intro _
  exact ⟨rfl, fun frame hf => ⟨_, _, by simpa [encode] using hf.symm, rfl⟩⟩

theorem FrameShape.firePulse (duration : U16) : FrameShape.Statement (.firePulse duration) := by
  intro _
  exact ⟨rfl, fun frame hf => ⟨_, _, by simpa [encode] using hf.symm, rfl⟩⟩

theorem FrameShape.undefined (op : Byte) : FrameShape.Statement (.undefined op) := by
  intro h
  have h : definedOpcode op = false := by simpa [Instr.wellFormed] using h
  exact ⟨rfl, fun frame hf => ⟨op, [], by simpa [encode] using hf.symm, by simp [npl_undefined h]⟩⟩

theorem FrameShape.qTryPush (b : Byte) : FrameShape.Statement (.qTryPush b) := by
  intro _
  exact ⟨rfl, fun frame hf => by simp [encode] at hf⟩

theorem FrameShape.qPopBlocking : FrameShape.Statement .qPopBlocking := by
  intro _
  exact ⟨rfl, fun frame hf => by simp [encode] at hf⟩

theorem FrameShape.qHasData : FrameShape.Statement .qHasData := by
  intro _
  exact ⟨rfl, fun frame hf => by simp [encode] at hf⟩

theorem FrameShape.rxEvent (b : Byte) : FrameShape.Statement (.rxEvent b) := by
  intro _
  exact ⟨rfl, fun frame hf => by simp [encode] at hf⟩

theorem FrameShape.nvsErase : FrameShape.Statement .nvsErase := by
  intro _
  exact ⟨rfl, fun frame hf => by simp [encode] at hf⟩

theorem FrameShape.nvsProgram (w : RecordWords) : FrameShape.Statement (.nvsProgram w) := by
  intro _
  exact ⟨rfl, fun frame hf => by simp [encode] at hf⟩

theorem FrameShape.nvsReadRecord : FrameShape.Statement .nvsReadRecord := by
  intro _
  exact ⟨rfl, fun frame hf => by simp [encode] at hf⟩

theorem FrameShape.nvsWriteRecord (r : Record) : FrameShape.Statement (.nvsWriteRecord r) := by
  intro _
  exact ⟨rfl, fun frame hf => by simp [encode] at hf⟩

theorem FrameShape.pidNew : FrameShape.Statement .pidNew := by
  intro _
  exact ⟨rfl, fun frame hf => by simp [encode] at hf⟩

theorem FrameShape.pidRestore : FrameShape.Statement .pidRestore := by
  intro _
  exact ⟨rfl, fun frame hf => by simp [encode] at hf⟩

theorem FrameShape.pidPersist : FrameShape.Statement .pidPersist := by
  intro _
  exact ⟨rfl, fun frame hf => by simp [encode] at hf⟩

theorem FrameShape.pidNeedsControl (now : U64) : FrameShape.Statement (.pidNeedsControl now) := by
  intro _
  exact ⟨rfl, fun frame hf => by simp [encode] at hf⟩

theorem FrameShape.pidSetSetpoint (v : F32) : FrameShape.Statement (.pidSetSetpoint v) := by
  intro _
  exact ⟨rfl, fun frame hf => by simp [encode] at hf⟩

theorem FrameShape.pidGetSetpoint : FrameShape.Statement .pidGetSetpoint := by
  intro _
  exact ⟨rfl, fun frame hf => by simp [encode] at hf⟩

theorem FrameShape.pidStep (m : U16) (now : U64) : FrameShape.Statement (.pidStep m now) := by
  intro _
  exact ⟨rfl, fun frame hf => by simp [encode] at hf⟩

theorem FrameShape.supEval : FrameShape.Statement .supEval := by
  intro _
  exact ⟨rfl, fun frame hf => by simp [encode] at hf⟩

theorem FrameShape.lopSetSetpoint (v : F32) : FrameShape.Statement (.lopSetSetpoint v) := by
  intro _
  exact ⟨rfl, fun frame hf => by simp [encode] at hf⟩

theorem FrameShape.lopGetSetpoint : FrameShape.Statement .lopGetSetpoint := by
  intro _
  exact ⟨rfl, fun frame hf => by simp [encode] at hf⟩

theorem FrameShape.lopPersist : FrameShape.Statement .lopPersist := by
  intro _
  exact ⟨rfl, fun frame hf => by simp [encode] at hf⟩

theorem FrameShape.reset : FrameShape.Statement .reset := by
  intro _
  exact ⟨rfl, fun frame hf => by simp [encode] at hf⟩

end Sys2Proof.Laws
end

