-- ==== Sys2Proof/Tests/Slice0.lean ====
section
/-! SUPPORT. Tests by evaluation: the encodings of 30_encoding written out, vectors of 95_test_vectors
(each test names its vector), and for every obligation with hypotheses a concrete state and operands
that meet them. -/

namespace Sys2Proof.Tests

open Sys2Proof.Machine

/-! ## Helpers -/

/-- The result is a next state with the property. -/
def nextHas (r : Machine.Result) (p : State → Bool) : Bool :=
  match r with
  | .next t => p t
  | .fault _ => false
  | .refused _ => false

/-- Input levels with a measurement, a timer value and the control enable. -/
def levels (adc : U16) (now : U64) (en : Bool) : Ports := ⟨adc, now, en, none⟩
/-- ML moves with these levels. -/
def ml (p : Ports) : Move := ⟨.ml, p⟩
/-- All levels zero. -/
def quiet : Ports := levels 0#16 0#64 false
/-- ML waiting for an opcode in P3 with these bytes received and this script. -/
def waiting (q : List Byte) (env : List Move) : State :=
  { State.reset with mlp := .p3Dispatch, q := q, env := env }
/-- A frame in the latches, about to be executed. -/
def executing : State := { State.reset with mlp := .p3Dispatch, ds := .execute }
/-- A response under way. -/
def responding : State := { State.reset with mlp := .p3Dispatch, ds := .respond }
/-- Faulted. -/
def faultedState : State := { State.reset with faulted := true, faultCause := .unknownOpcode }
/-- A sector with these words 0 to 5. -/
def sectorOf (w : RecordWords) : Nvs := nvsProgram [] w
/-- The record of vector S1. -/
def recordS1 : Record := ⟨0x3F800000#32, 0x3F000000#32, 0x3E800000#32, 1000#64⟩
/-- The record of vector S4. -/
def recordS4 : Record := ⟨0x7FC00001#32, 0xFF800000#32, 0x80000000#32, 0x0123456789ABCDEF#64⟩
/-- A controller with these gains and this setpoint, as the vectors K1 to K9 start. -/
def controller (kp ki kd setpoint : F32) : State :=
  { State.reset with kp := kp, ki := ki, kd := kd, setpoint := setpoint, interval := 1000#64 }
/-- The output and the integral term after a control step. -/
def stepGives (m : U16) (out : U16) (integral : F32) (s : State) : Bool :=
  nextHas (exec (.pidStep m 7#64) s) fun t =>
    t.ret == .output out && t.integral == integral && t.lastUpdate == 7#64

/-! ## Well-formedness -/

theorem test_undefined_of_defined_opcode_refused :
    Instr.wellFormed (.undefined 0x01) = false ∧ Instr.wellFormed (.undefined 0x02) = false
      ∧ Instr.wellFormed (.undefined 0x03) = false ∧ Instr.wellFormed (.undefined 0x04) = false := by
  decide
theorem test_wellFormed_accepts :
    Instr.wellFormed (.undefined 0x00) = true ∧ Instr.wellFormed (.undefined 0x05) = true
      ∧ Instr.wellFormed (.undefined 0xFC) = true ∧ Instr.wellFormed (.hvEnable 0xFF) = true := by decide

/-! ## Encodings (30_encoding R82 to R88, R99) -/

theorem test_decode_hv_enable : decode [0x01, 0x01, 0x02] = .ok (.hvEnable 1, [0x02]) := by rfl
theorem test_decode_hv_enable_bad_value : decode [0x01, 0xFF] = .ok (.hvEnable 255, []) := by rfl
theorem test_decode_get_meas : decode [0x02, 0x02] = .ok (.getMeas, [0x02]) := by rfl
/-- E7 and D10b: period and width are big-endian. -/
theorem test_decode_set_pwm : decode [0x03, 0x01, 0x00, 0x01, 0x01] = .ok (.setPwm 256 257, []) := by rfl
/-- D11. -/
theorem test_decode_fire_pulse : decode [0x04, 0x01, 0xF4] = .ok (.firePulse 500, []) := by rfl
/-- D16: no payload byte is taken. -/
theorem test_decode_undefined : decode [0x05, 0x01, 0x02] = .ok (.undefined 5, [0x01, 0x02]) := by rfl
/-- D14, D15. -/
theorem test_decode_undefined_edges :
    decode [0x00] = .ok (.undefined 0, []) ∧ decode [0xFC] = .ok (.undefined 0xFC, []) := ⟨rfl, rfl⟩
theorem test_decode_rejects :
    decode [] = .error .empty ∧ decode [0x01] = .error (.truncated 0x01 0)
      ∧ decode [0x03, 0x00, 0x64, 0x00] = .error (.truncated 0x03 3)
      ∧ decode [0x04, 0x01] = .error (.truncated 0x04 1) := ⟨rfl, rfl, rfl, rfl⟩
theorem test_encode :
    encode (.hvEnable 1) = some [0x01, 0x01] ∧ encode .getMeas = some [0x02]
      ∧ encode (.setPwm 100 5) = some [0x03, 0x00, 0x64, 0x00, 0x05]
      ∧ encode (.firePulse 500) = some [0x04, 0x01, 0xF4] ∧ encode (.undefined 9) = some [0x09]
      ∧ encode .nvsErase = none := by decide
/-- The table's numbers: byte 0 is the most significant byte (30_encoding section 9). -/
theorem test_table_words :
    decodeTableWord 16 0x0101 = some (.hvEnable 1) ∧ decodeTableWord 8 0x02 = some .getMeas
      ∧ decodeTableWord 40 0x0300640005 = some (.setPwm 100 5)
      ∧ decodeTableWord 24 0x0401F4 = some (.firePulse 500)
      ∧ decodeTableWord 8 0x07 = some (.undefined 7) ∧ decodeTableWord 0 0 = none := by decide
theorem test_step_runs_placed_hv_enable :
    nextHas (step (State.reset.withFetchWord 16 0x0101)) (fun t => t.hvEnabled && t.ds == .respond) = true := by
  decide
theorem test_step_runs_placed_set_pwm :
    nextHas (step (State.reset.withFetchWord 40 0x0300640005))
      (fun t => t.pwmPeriod == 100#16 && t.pwmWidth == 5#16) = true := by decide
theorem test_step_runs_placed_undefined :
    nextHas (step (State.reset.withFetchWord 8 0x07))
      (fun t => t.faulted && t.faultCause == .unknownOpcode && t.op == 7#8) = true := by decide

/-! ## Commands -/

/-- D1 and D2: four steps of ML. -/
theorem test_hv_enable :
    nextHas (stepN 4 (waiting [0x01, 0x01] (List.replicate 4 (ml quiet))))
      (fun t => t.hvEnabled && t.trace == [.setHv false, .setHv true, .tx 0x01] && t.q == []) = true := by
  decide
/-- D3: no output, the high voltage as it was. -/
theorem test_hv_enable_bad :
    nextHas (exec (.hvEnable 2) { executing with hvEnabled := true })
      (fun t => t.faulted && t.faultCause == .badEnableValue && t.hvEnabled && t.trace == [.setHv false])
        = true := by decide
/-- D4a: the two bytes of 0x0123. -/
theorem test_get_meas :
    nextHas (stepN 4 { waiting [0x02] (List.replicate 4 (ml quiet)) with meas := 0x0123#16 })
      (fun t => t.trace == [.setHv false, .tx 0x01, .tx 0x23] && t.mlp == .p4Supervise) = true := by decide
/-- D5. -/
theorem test_set_pwm :
    nextHas (stepN 7 (waiting [0x03, 0x00, 0x64, 0x00, 0x05] (List.replicate 7 (ml quiet))))
      (fun t => t.trace == [.setHv false, .setPwm 100 5, .tx 0x03] && t.pwmPeriod == 100#16) = true := by
  decide
/-- D6 to D10b: what is rejected and what is accepted. -/
theorem test_pwm_ok :
    pwmOk 5 100 = false ∧ pwmOk 0 0 = false ∧ pwmOk 100 100 = true ∧ pwmOk 100 0 = true
      ∧ pwmOk 0xFFFF 0xFFFF = true ∧ pwmOk 256 257 = false := by decide
/-- D20: a byte received during the pulse waits. -/
theorem test_fire_pulse :
    nextHas (stepN 6 (waiting [0x04, 0x00, 0x0A]
        [ml quiet, ml quiet, ml quiet, ml quiet, ⟨.rx 0x02, quiet⟩, ml quiet]))
      (fun t => t.trace == [.setHv false, .firePulse 10, .tx 0x04] && t.q == [0x02]) = true := by decide
/-- D16: one byte is consumed. -/
theorem test_undefined :
    nextHas (step (waiting [0x05, 0x01, 0x02] [ml quiet]))
      (fun t => t.faulted && t.q == [0x01, 0x02] && t.trace == [.setHv false]) = true := by decide
/-- D17: held in READ_PAYLOAD. -/
theorem test_held_in_payload :
    nextHas (stepN 5 (waiting [0x03, 0x00, 0x64] (List.replicate 5 (ml quiet))))
      (fun t => t.ds == .readPayload && t.plc == 2 && t.pl.b1 == 0x64#8 && t.mlp == .p3Dispatch) = true := by
  decide

/-! ## Transport Queue -/

/-- Q3. -/
theorem test_try_push :
    nextHas (exec (.qTryPush 0x64) { State.reset with q := [0x03, 0x00] })
      (fun t => t.q == [0x03, 0x00, 0x64] && t.ret == .ok) = true := by decide
theorem test_pop :
    nextHas (exec .qPopBlocking { State.reset with q := [0x03, 0x00] })
      (fun t => t.q == [0x00] && t.ret == .byte 0x03) = true := by decide
/-- Q1. -/
theorem test_has_data_empty : nextHas (exec .qHasData State.reset) (fun t => t.ret == .flag false) = true := by
  decide
/-- Q5. -/
theorem test_rx_fills :
    nextHas (exec (.rxEvent 0x55) { State.reset with q := List.replicate 127 0x02 })
      (fun t => t.q.length == 128 && !t.faulted) = true := by decide +kernel
/-- Q6. -/
theorem test_rx_overflow :
    nextHas (exec (.rxEvent 0x02) { State.reset with q := List.replicate 128 0x02 })
      (fun t => t.q.length == 128 && t.faultCause == .queueOverflow && t.faulted) = true := by decide +kernel
/-- Q6: `FULL`. -/
theorem test_try_push_full :
    nextHas (exec (.qTryPush 0x02) { State.reset with q := List.replicate 128 0x02 })
      (fun t => t.q.length == 128 && t.ret == .full && !t.faulted) = true := by decide +kernel
/-- Q4. -/
theorem test_fifo :
    (queueRun [.push 0xA1, .push 0xA2, .push 0xA3, .pop, .push 0xA4, .pop, .pop, .pop] State.reset).popped
      = [0xA1, 0xA2, 0xA3, 0xA4] := by decide
/-- Q10 to Q12. -/
theorem test_ring :
    (RingBuffer.mk [] 130 2).push 0x09 = none ∧ (RingBuffer.mk [] 200 200).hasData = false
      ∧ RingBuffer.cell 130 = 2 ∧ ((RingBuffer.mk [] 130 3).push 0x09).map (·.wr) = some 131 := by decide

/-! ## Non-Volatile Store -/

/-- S1. -/
theorem test_format_s1 :
    formatRecord recordS1 =
      ⟨0x444E4A4E, 0x3F800000, 0x3F000000, 0x3E800000, 0x00000000, 0x000003E8⟩ := by decide
/-- S4. -/
theorem test_format_s4 :
    formatRecord recordS4 =
      ⟨0x444E4A4E, 0x7FC00001, 0xFF800000, 0x80000000, 0x01234567, 0x89ABCDEF⟩ := by decide
/-- S4, read back. -/
theorem test_read_s4 :
    nextHas (exec .nvsReadRecord { State.reset with nvs := sectorOf (formatRecord recordS4) })
      (fun t => t.ret == .record (some recordS4)) = true := by decide
/-- S2 and S3: an erased sector, one wrong bit, the magic byte-swapped. -/
theorem test_read_invalid :
    readRecord [] = none
      ∧ readRecord (sectorOf ⟨0x444E4A4F, 0x3F800000, 0x3F000000, 0x3E800000, 0, 0x3E8⟩) = none
      ∧ readRecord (sectorOf ⟨0x4E4A4E44, 0, 0, 0, 0, 0⟩) = none := by decide
/-- S5 and S7. -/
theorem test_read_corners :
    readRecord (sectorOf ⟨0x444E4A4E, 0, 0, 0, 0, 0⟩) = some ⟨0, 0, 0, 0⟩
      ∧ intervalOf 1 0 = 4294967296#64 := by decide
theorem test_erase :
    nextHas (exec .nvsErase { State.reset with nvs := sectorOf (formatRecord recordS1) })
      (fun t => t.nvs == [] && t.trace == [.setHv false, .erase]) = true := by decide
theorem test_program :
    nextHas (exec (.nvsProgram (formatRecord recordS1)) State.reset)
      (fun t => nvsRead t.nvs 5 == 0x3E8#32 && nvsRead t.nvs 6 == 0xFFFFFFFF#32) = true := by decide
/-- S1: the erase is the first of the two steps. -/
theorem test_write_record_first_step :
    nextHas (exec (.nvsWriteRecord recordS1) State.reset)
      (fun t => t.nvsBusy == .erasedPendingProgram && t.trace == [.setHv false, .erase]) = true := by decide
theorem test_write_record_second_step :
    nextHas (exec (.nvsWriteRecord recordS1) { State.reset with nvsBusy := .erasedPendingProgram })
      (fun t => t.nvsBusy == .idle && readRecord t.nvs == some recordS1) = true := by decide

/-! ## PID controller -/

/-- P1: the fields with a stated value. -/
theorem test_pid_new :
    nextHas (exec .pidNew { State.reset with integral := 1#32, setpoint := 1#32 })
      (fun t => t.integral == 0#32 && t.setpoint == 0#32 && t.pLimit == 0x43480000#32) = true := by decide
/-- P2. -/
theorem test_pid_new_from_record :
    nextHas (exec .pidNew { State.reset with nvs := sectorOf (formatRecord recordS1) })
      (fun t => t.kp == 0x3F800000#32 && t.kd == 0x3E800000#32 && t.interval == 1000#64) = true := by decide
theorem test_pid_restore :
    nextHas (exec .pidRestore { State.reset with nvs := sectorOf (formatRecord recordS4), setpoint := 5#32 })
      (fun t => t.ki == 0xFF800000#32 && t.interval == 0x0123456789ABCDEF#64 && t.setpoint == 5#32) = true := by
  decide
/-- P3. -/
theorem test_pid_persist :
    nextHas (exec .pidPersist
        { controller 0x40000000 0x3F000000 0x3F800000 0 with
          interval := 72000#64, nvsBusy := .erasedPendingProgram })
      (fun t => t.trace == [.setHv false,
        .program ⟨0x444E4A4E, 0x40000000, 0x3F000000, 0x3F800000, 0, 0x11940⟩]) = true := by decide
/-- T1, T2, T4, T5, T8. -/
theorem test_needs_control :
    needsControl 1000 { controller 0 0 0 0 with ports := levels 0 0 true } = false
      ∧ needsControl 1001 { controller 0 0 0 0 with ports := levels 0 0 true } = true
      ∧ needsControl 3999 { controller 0 0 0 0 with ports := levels 0 0 true, lastUpdate := 5000#64 } = true
      ∧ needsControl 4000 { controller 0 0 0 0 with ports := levels 0 0 true, lastUpdate := 5000#64 } = false
      ∧ needsControl 0 { controller 0 0 0 0 with ports := levels 0 0 true, lastUpdate := 0xFFFFFFFFFFFFFFFF#64 }
        = true := by decide
/-- T3. -/
theorem test_needs_control_disabled :
    nextHas (exec (.pidNeedsControl 999999) (controller 0 0 0 0)) (fun t => t.ret == .flag false) = true := by
  decide
/-- K5: the integral term is cleared, the sample and the time kept. -/
theorem test_set_setpoint :
    nextHas (exec (.pidSetSetpoint 0x42C80000)
        { State.reset with integral := 0x41A00000#32, setpoint := 0x42C80000#32, lastUpdate := 9#64 })
      (fun t => t.integral == 0#32 && t.setpoint == 0x42C80000#32 && t.lastUpdate == 9#64) = true := by decide
theorem test_get_setpoint :
    nextHas (exec .pidGetSetpoint { State.reset with setpoint := 0x42C80000#32 })
      (fun t => t.ret == .setpoint 0x42C80000) = true := by decide
/-- K1, first row. -/
theorem test_step_k1 :
    stepGives 90 225 0x40A00000 (controller 0x40000000 0x3F000000 0x3F800000 0x42C80000) = true := by
  decide +kernel
/-- K4, last row: a correction of -0.24 gives 199. -/
theorem test_step_k4 :
    stepGives 53 199 0x3D75C28E
      { controller 0x3DCCCCCD 0x3C23D70A 0 0x42480000 with
        integral := 0x3DB851EB#32, prevMeas := some 0x423C0000#32 } = true := by decide +kernel
/-- K10. -/
theorem test_clamp_and_remap :
    remap Config.limit (defClamp Config.limit 0x437A0000) = 400#16
      ∧ remap Config.limit (defClamp Config.limit 0xFF800000) = 0#16
      ∧ remap Config.limit (defClamp Config.limit 0x80000000) = 200#16
      ∧ remap Config.limit (defClamp Config.limit 0x4347FD71) = 399#16 := by decide +kernel

/-- 1.0, 200.0 and the least subnormal, in units of 2^-149 (30_encoding R93). -/
theorem test_f32Int :
    f32Int 0x3F800000 = 2 ^ 149 ∧ f32Int 0xC3480000 = -(200 * 2 ^ 149) ∧ f32Int 0x00000001 = 1
      ∧ f32Int 0x80000000 = 0 := by decide
/-- 2^24 + 1 and 2^24 + 3 are ties, and go to the even neighbours 2^24 and 2^24 + 4 (00_scope R7). -/
theorem test_fadd_ties :
    fadd 0x4B800000 0x3F800000 = 0x4B800000 ∧ fadd 0x4B800001 0x3F800000 = 0x4B800002 := by
  decide +kernel
/-- The greatest finite value doubled, and half the least subnormal (00_scope R7, 42_pid R170). -/
theorem test_fmul_ends :
    fmul 0x7F7FFFFF 0xC0000000 = 0xFF800000 ∧ fmul 0x00000001 0x3F000000 = 0x00000000
      ∧ fmul 0x00000003 0x3F000000 = 0x00000002 := by decide +kernel

/-! ## Supervisor, local requests, reset -/

/-- H1. -/
theorem test_sup_eval_67 :
    nextHas (exec .supEval { State.reset with meas := 67#16 })
      (fun t => t.trace == [.setHv false, .setIndicator .hazard true, .setIndicator .safe false]) = true := by
  decide
/-- H2 and H3. -/
theorem test_danger :
    danger { State.reset with meas := 66#16 } = false ∧ danger { State.reset with hvEnabled := true } = true := by
  decide
/-- M5, phase P0. -/
theorem test_lop_set_setpoint :
    nextHas (exec (.lopSetSetpoint 0x42C80000) { State.reset with integral := 1#32 })
      (fun t => t.setpoint == 0x42C80000#32 && t.integral == 0#32 && t.mlp == .p1Sample) = true := by decide
/-- M6. -/
theorem test_lop_get_setpoint :
    nextHas (exec .lopGetSetpoint { State.reset with setpoint := 0x42C80000#32 })
      (fun t => t.trace == [.setHv false, .lopResult 0x42C80000]) = true := by decide
theorem test_lop_persist :
    nextHas (exec .lopPersist { controller 0x40000000 0x3F000000 0x3F800000 0 with
        nvsBusy := .erasedPendingProgram })
      (fun t => nvsRead t.nvs 1 == 0x40000000#32 && t.mlp == .p1Sample) = true := by decide
/-- X3. -/
theorem test_lop_persist_faulted :
    nextHas (exec .lopPersist faultedState) (fun t => t.trace == [.setHv false]) = true := by decide
/-- X6. -/
theorem test_reset_from_faulted :
    nextHas (exec .reset { faultedState with hvEnabled := true, q := [0x02] })
      (fun t => !t.faulted && t.faultCause == .none && !t.hvEnabled && t.q == []
        && t.trace == [.setHv false, .setHv false]) = true := by decide
/-- G4, step 5: the record is loaded by the next reset. -/
theorem test_reset_loads_record :
    nextHas (exec .reset { State.reset with nvs := sectorOf (formatRecord recordS1) })
      (fun t => t.kp == 0x3F800000#32 && t.interval == 1000#64 && nvsRead t.nvs 5 == 0x3E8#32) = true := by
  decide
/-- X4: nothing of the protocol happens while faulted; the blink drives the hazard indicator only. -/
theorem test_blink :
    nextHas (stepN 3 { faultedState with
        blinkNext := some true, env := [ml quiet, ⟨.rx 0x02, quiet⟩, ml quiet] })
      (fun t => t.q == [] && t.trace ==
        [.setHv false, .setIndicator .hazard true, .setIndicator .hazard false]) = true := by decide

/-! ## Completed runs (70_reset R304) -/

/-- `02` received, then one iteration of the loop that answers it. -/
def getMeasRun : List Move := ⟨.rx 0x02, quiet⟩ :: List.replicate 8 (ml quiet)
theorem test_completed : completed 9 { State.reset with env := getMeasRun } = true := by decide
/-- A byte the host is still to send; a frame held in its payload. -/
theorem test_not_completed_bytes_missing :
    completed 9 { State.reset with env := getMeasRun ++ [⟨.rx 0x02, quiet⟩] } = false
      ∧ completed 9 { State.reset with env := ⟨.rx 0x01, quiet⟩ :: List.replicate 8 (ml quiet) } = false := by
  decide
/-- A restart that drops a received byte leaves the block at rest, but the run has not completed. -/
theorem test_not_completed_byte_dropped :
    nextHas (stepN 2 { State.reset with env := [⟨.rx 0x02, quiet⟩, ⟨.restart, quiet⟩] }) atRest = true
      ∧ completed 2 { State.reset with env := [⟨.rx 0x02, quiet⟩, ⟨.restart, quiet⟩] } = false := by decide

/-! ## The hypotheses of the obligations are met

One theorem for each obligation that has hypotheses, with boundary values of each clause. -/

theorem witness_DecodeInvertsEncode :
    Instr.wellFormed (.setPwm 256 257) = true
      ∧ encode (.setPwm 256 257) = some [0x03, 0x01, 0x00, 0x01, 0x01] := by decide
theorem witness_EncodeInvertsDecode : decode [0x04, 0x01, 0xF4, 0x02] = .ok (.firePulse 500, [0x02]) := by rfl
theorem witness_FrameLengthFromOpcode :
    npl 0x03 ≤ [0x00#8, 0x64#8, 0x00#8, 0x05#8].length ∧ [0x00#8, 0x64#8, 0x00#8].length < npl 0x03
      ∧ (0#8).toNat = 0 ∧ 5 ≤ (5#8).toNat ∧ 5 ≤ (255#8).toNat := by decide
theorem witness_HvEnableExecutes :
    executing.faulted = false ∧ executing.ds = .execute ∧ (0#8).toNat ≤ 1 ∧ (1#8).toNat ≤ 1 := by decide
theorem witness_HvEnableBadValueFatal :
    executing.faulted = false ∧ executing.ds = .execute ∧ 2 ≤ (2#8).toNat ∧ 2 ≤ (255#8).toNat := by decide
theorem witness_GetMeasAndFirePulseExecute : executing.faulted = false ∧ executing.ds = .execute := by decide
theorem witness_SetPwmExecutes :
    executing.faulted = false ∧ executing.ds = .execute
      ∧ ((100#16).toNat ≠ 0 ∧ (100#16).toNat ≤ (100#16).toNat)
      ∧ ¬((0#16).toNat ≠ 0 ∧ (0#16).toNat ≤ (0#16).toNat) := by decide
theorem witness_UndefinedOpcodeFatal : State.reset.faulted = false := by decide
theorem witness_ResponseBytes :
    responding.faulted = false ∧ responding.ds = .respond ∧ responding.rsi = 0
      ∧ { responding with rsi := 1 }.ds = .respond ∧ { responding with rsi := 1 }.rsi = 1 := by decide
theorem witness_QueueOperations :
    State.reset.faulted = false ∧ State.reset.q = []
      ∧ { State.reset with q := [0x03, 0x00] }.q = 0x03 :: [0x00] := by decide
theorem witness_RxEventResult :
    State.reset.faulted = false
      ∧ { State.reset with q := List.replicate 127 0x02 }.q.length < Config.queueCapacity
      ∧ { State.reset with q := List.replicate 128 0x02 }.q.length = Config.queueCapacity := by decide +kernel
theorem witness_FifoLaw :
    State.reset.faulted = false ∧ State.reset.q = []
      ∧ 2 ≤ (waiting [] [⟨.rx 0x02, quiet⟩, ml quiet]).env.length
      ∧ nextHas (stepN 2 (waiting [] [⟨.rx 0x02, quiet⟩, ml quiet])) (fun t => !t.faulted) = true := by
  decide
theorem witness_CapacityNeverExceeded :
    State.reset.q.length ≤ Config.queueCapacity
      ∧ (∃ t, step { State.reset with env := [⟨.rx 0x02, quiet⟩] } = .next t)
      ∧ { State.reset with q := List.replicate 128 0x02 }.q.length = 128
      ∧ { State.reset with q := List.replicate 128 0x02 }.faulted = false := by
  exact ⟨by decide +kernel, ⟨_, rfl⟩, by decide +kernel, by decide +kernel⟩
/-- A ring that is neither empty nor full, whose cells wrap around the end of the array. -/
def wrappedRing : RingBuffer := ⟨List.replicate 128 0x02, 130, 126⟩
theorem witness_RingRefinesQueue :
    (List.replicate 128 0x02#8).length = Config.queueCapacity ∧ wrappedRing.wf = true ∧ { State.reset with q := List.replicate 4 0x02 }.q = wrappedRing.contents
      ∧ (wrappedRing.push 0x09).isSome = true ∧ wrappedRing.pop.isSome = true := by decide +kernel
theorem witness_RingCursorOrder : wrappedRing.wf = true ∧ wrappedRing.full = false := by decide +kernel
theorem witness_EraseResult : State.reset.faulted = false := by decide
theorem witness_ProgramResult :
    State.reset.faulted = false ∧ State.reset.nvs = [] ∧ 6 ≤ 6
      ∧ nvsRead { State.reset with nvs := sectorOf (formatRecord recordS1) }.nvs 0 ≠ Config.erasedWord := by
  decide
theorem witness_ReadRecordResult :
    State.reset.faulted = false ∧ nvsRead State.reset.nvs 0 ≠ 0x444E4A4E#32
      ∧ nvsRead { State.reset with nvs := sectorOf (formatRecord recordS1) }.nvs 0 = 0x444E4A4E#32 := by
  decide
theorem witness_WriteRecordSteps :
    State.reset.faulted = false ∧ State.reset.nvsBusy = .idle ∧ State.reset.nvs = []
      ∧ { State.reset with nvsBusy := .erasedPendingProgram }.nvsBusy = .erasedPendingProgram
      ∧ nvsRead { State.reset with
          nvsBusy := .erasedPendingProgram, nvs := sectorOf (formatRecord recordS1) }.nvs 0
        ≠ Config.erasedWord := by decide
theorem witness_RecordRoundTrip :
    State.reset.faulted = false ∧ State.reset.nvsBusy = .idle
      ∧ ∃ t u, exec (.nvsWriteRecord recordS4) State.reset = .next t
        ∧ exec (.nvsWriteRecord recordS4) t = .next u ∧ u.faulted = false :=
  ⟨rfl, rfl, _, _, rfl, rfl, rfl⟩
/-- The levels that offer `lop(PERSIST)`. -/
def persistOffered : Ports := ⟨0#16, 0#64, false, some .persist⟩
theorem witness_PowerLossDuringPersist :
    State.reset.faulted = false ∧ State.reset.mlp = .p0Local ∧ State.reset.nvsBusy = .idle
      ∧ persistOffered.lop = some .persist
      ∧ { State.reset with env := [⟨.ml, persistOffered⟩, ⟨.powerLoss, quiet⟩] }.env
        = ⟨.ml, persistOffered⟩ :: ⟨.powerLoss, quiet⟩ :: []
      ∧ { State.reset with env := [⟨.ml, persistOffered⟩, ⟨.ml, quiet⟩, ⟨.powerLoss, quiet⟩] }.env
        = ⟨.ml, persistOffered⟩ :: ⟨.ml, quiet⟩ :: ⟨.powerLoss, quiet⟩ :: [] := by decide
theorem witness_SectorFormKept :
    Memory.wf State.reset.nvs = true ∧ ∃ t, exec (.nvsProgram (formatRecord recordS1)) State.reset = .next t :=
  ⟨rfl, _, rfl⟩
theorem witness_SectorFrame :
    (∃ t, exec .supEval { State.reset with nvs := sectorOf (formatRecord recordS1) } = .next t)
      ∧ Instr.supEval ≠ .nvsErase ∧ Instr.supEval ≠ .pidPersist ∧ Instr.supEval ≠ .lopPersist :=
  ⟨⟨_, rfl⟩, by decide, by decide, by decide⟩
theorem witness_PidNewResult : State.reset.faulted = false := by decide
theorem witness_PidRestoreResult :
    State.reset.faulted = false ∧ nvsRead State.reset.nvs 0 ≠ 0x444E4A4E#32
      ∧ nvsRead { State.reset with nvs := sectorOf (formatRecord recordS1) }.nvs 0 = 0x444E4A4E#32 := by
  decide
theorem witness_PidPersistSteps :
    State.reset.faulted = false ∧ State.reset.nvsBusy = .idle ∧ State.reset.nvs = []
      ∧ { State.reset with nvsBusy := .erasedPendingProgram }.nvsBusy = .erasedPendingProgram
      ∧ nvsRead { State.reset with
          nvsBusy := .erasedPendingProgram, nvs := sectorOf (formatRecord recordS1) }.nvs 0
        ≠ Config.erasedWord := by decide
theorem witness_NeedsControlResult : State.reset.faulted = false := by decide
theorem witness_SetpointOperations : State.reset.faulted = false := by decide
/-- K1 has a raw value that is a number, K6 one that is NaN. -/
theorem witness_PidStepResult :
    State.reset.faulted = false ∧ State.reset.prevMeas = none
      ∧ { State.reset with prevMeas := some 0x423C0000#32 }.prevMeas = some 0x423C0000#32
      ∧ f32IsNaN (defaultLaw (lawInput 90 (controller 0x40000000 0x3F000000 0x3F800000 0x42C80000))).raw = false
      ∧ f32IsNaN (defaultLaw (lawInput 5 { controller 0 0 0 0 with integral := 0x7FC00000#32 })).raw = true := by
  exact ⟨by decide, rfl, rfl, by decide +kernel,
    f32IsNaN_lim _ (fadd_nan (.inl (fadd_nan (.inr (f32IsNaN_lim _ (fadd_nan (.inl rfl)))))))⟩
/-- 250.0, minus infinity and 12.5 (K10). -/
theorem witness_DefensiveClampBounds :
    (f32IsNaN 0x437A0000#32 = false ∧ fgt 0x437A0000#32 Config.limit = true)
      ∧ (f32IsNaN 0xFF800000#32 = false ∧ flt 0xFF800000#32 (fneg Config.limit) = true)
      ∧ (f32IsNaN 0x41480000#32 = false ∧ fgt 0x41480000#32 Config.limit = false
        ∧ flt 0x41480000#32 (fneg Config.limit) = false ∧ f32Mag 0x41480000#32 ≠ 0)
      ∧ (f32IsNaN 0x80000000#32 = false ∧ f32Mag 0x80000000#32 = 0) := by decide
theorem witness_ControlOutputRange :
    State.reset.outLimit = Config.limit ∧ State.reset.faulted = false := ⟨rfl, rfl⟩
/-- The limiter at 250.0, minus infinity, 12.5 and the limit itself. -/
theorem witness_DefaultLawBounded :
    (lawInput 5 State.reset).outLimit = Config.limit ∧ (lawInput 5 State.reset).iLimit = Config.limit
      ∧ fgt 0x437A0000#32 Config.limit = true
      ∧ (fgt 0xFF800000#32 Config.limit = false ∧ flt 0xFF800000#32 (fneg Config.limit) = true)
      ∧ (fgt 0x41480000#32 Config.limit = false ∧ flt 0x41480000#32 (fneg Config.limit) = false)
      ∧ f32IsNaN Config.limit = false ∧ f32Neg Config.limit = false := ⟨rfl, rfl, by decide⟩
/-- Finite operands (1.0 and -200.0), infinities, zero, NaN, and 65535.0, the last value truncated. -/
theorem witness_Binary32Arithmetic :
    (f32Finite 0x3F800000#32 = true ∧ f32Finite 0xC3480000#32 = true)
      ∧ (f32Int 0x3F800000#32 + f32Int 0xBF800000#32 = 0 ∧ f32Int 0x80000000#32 + f32Int 0x80000000#32 = 0)
      ∧ (f32IsNaN 0x7F800000#32 = false ∧ f32IsInf 0x7F800000#32 = true ∧ f32IsInf 0x3F800000#32 = false)
      ∧ (f32IsNaN 0xFF800000#32 = false ∧ f32IsInf 0xFF800000#32 = true
        ∧ f32Neg 0x7F800000#32 ≠ f32Neg 0xFF800000#32)
      ∧ f32Mag 0x3F800000#32 ≠ 0 ∧ f32Mag 0x80000000#32 = 0 ∧ f32IsNaN 0x7FC00000#32 = true
      ∧ f32IsNaN (fmul 0x7F800000#32 0x3F800000#32) = false
      ∧ (f32Finite 0x477FFF00#32 = true ∧ 0 ≤ f32Int 0x477FFF00#32
        ∧ f32Int 0x477FFF00#32 < 65536 * 2 ^ 149) := by decide +kernel
theorem witness_NanIntegralSticks :
    { State.reset with integral := 0x7FC00000#32 }.faulted = false
      ∧ f32IsNaN { State.reset with integral := 0x7FC00000#32 }.integral = true := by decide
theorem witness_SupEvalResult :
    State.reset.faulted = false
      ∧ { State.reset with mlp := .p4Supervise, env := [ml quiet] }.env = ⟨.ml, quiet⟩ :: []
      ∧ { State.reset with mlp := .p4Supervise }.mlp = .p4Supervise := by decide
theorem witness_LocalRequests :
    State.reset.faulted = false ∧ State.reset.mlp = .p0Local ∧ State.reset.nvsBusy = .idle
      ∧ State.reset.nvs = [] ∧ { State.reset with nvsBusy := .erasedPendingProgram }.mlp = .p0Local
      ∧ executing.mlp ≠ .p0Local
      ∧ nvsRead { State.reset with
          nvsBusy := .erasedPendingProgram, nvs := sectorOf (formatRecord recordS1) }.nvs 0
        ≠ Config.erasedWord := by decide
/-- The levels that offer a request. -/
def offering (r : LopRequest) : Ports := { quiet with lop := some r }
theorem witness_LocalRequests_step :
    { State.reset with env := [ml quiet] }.env = ⟨.ml, quiet⟩ :: [] ∧ quiet.lop = none
      ∧ { State.reset with env := [ml (offering .getSetpoint)] }.env = ⟨.ml, offering .getSetpoint⟩ :: []
      ∧ (offering (.setSetpoint 0x42C80000)).lop = some (.setSetpoint 0x42C80000)
      ∧ (offering .getSetpoint).lop = some .getSetpoint ∧ (offering .persist).lop = some .persist
      ∧ { State.reset with nvsBusy := .erasedPendingProgram, env := [ml quiet] }.nvsBusy
        = .erasedPendingProgram := by decide
theorem witness_StepRunsLatchedCommand :
    { executing with op := 0x04, env := [ml quiet] }.env = ⟨.ml, quiet⟩ :: []
      ∧ executing.faulted = false ∧ executing.mlp = .p3Dispatch ∧ executing.ds = .execute
      ∧ responding.ds = .respond ∧ responding.mlp = .p3Dispatch
      ∧ decode [0x04, executing.pl.b0, executing.pl.b1, executing.pl.b2, executing.pl.b3]
        = .ok (.firePulse 0, [0x00, 0x00]) := ⟨rfl, rfl, rfl, rfl, rfl, rfl, rfl⟩
theorem witness_StepFetchesOpcode :
    (waiting [] [ml quiet]).env = ⟨.ml, quiet⟩ :: [] ∧ (waiting [] []).faulted = false
      ∧ (waiting [] []).mlp = .p3Dispatch ∧ (waiting [] []).ds = .waitOpcode ∧ (waiting [] []).q = []
      ∧ (waiting [0x02, 0x01] []).q = 0x02 :: [0x01]
      ∧ (1 ≤ (1#8).toNat ∧ (4#8).toNat ≤ 4) ∧ (0#8).toNat = 0 ∧ 5 ≤ (5#8).toNat := by decide
theorem witness_StepReadsPayload :
    (waiting [] [ml quiet]).env = ⟨.ml, quiet⟩ :: []
      ∧ { waiting [] [] with ds := .readPayload, op := 0x03, plc := 3 }.ds = .readPayload
      ∧ { waiting [0x05] [] with ds := .readPayload, op := 0x03, plc := 3 }.q = 0x05 :: []
      ∧ (waiting [0x05] []).faulted = false ∧ (waiting [0x05] []).mlp = .p3Dispatch
      ∧ 0 < npl 0x03 ∧ 3 < npl 0x03 := by decide
theorem witness_StepSamples :
    { State.reset with mlp := .p1Sample, env := [ml quiet] }.env = ⟨.ml, quiet⟩ :: []
      ∧ State.reset.faulted = false := by decide
/-- T1 and T2. -/
theorem witness_StepControls :
    { controller 0 0 0 0 with mlp := .p2Control, env := [ml quiet] }.env = ⟨.ml, quiet⟩ :: []
      ∧ (controller 0 0 0 0).faulted = false
      ∧ needsControl 1000 { controller 0 0 0 0 with ports := levels 0 1000 true } = false
      ∧ needsControl 1001 { controller 0 0 0 0 with ports := levels 0 1001 true } = true := by decide
theorem witness_IdleIteration :
    { State.reset with env := List.replicate 5 (ml quiet) }.env
        = ⟨.ml, quiet⟩ :: ⟨.ml, quiet⟩ :: ⟨.ml, quiet⟩ :: ⟨.ml, quiet⟩ :: ⟨.ml, quiet⟩ :: []
      ∧ State.reset.faulted = false ∧ State.reset.mlp = .p0Local ∧ State.reset.nvsBusy = .idle
      ∧ State.reset.ds = .waitOpcode ∧ State.reset.q = [] ∧ quiet.lop = none
      ∧ needsControl quiet.now { State.reset with ports := quiet } = false := by decide
theorem witness_RxStepTouchesQueueOnly :
    { faultedState with env := [⟨.rx 0x02, quiet⟩] }.env = ⟨.rx 0x02, quiet⟩ :: []
      ∧ faultedState.faulted = true ∧ (waiting [] [⟨.rx 0x02, quiet⟩]).faulted = false
      ∧ (waiting (List.replicate 127 0x02) [⟨.rx 0x02, quiet⟩]).q.length ≠ Config.queueCapacity
      ∧ (waiting (List.replicate 128 0x02) [⟨.rx 0x02, quiet⟩]).q.length = Config.queueCapacity := by
  decide +kernel
theorem witness_HvEnableTransaction :
    (waiting [0x01, 0x01] (List.replicate 4 (ml quiet))).env
        = ⟨.ml, quiet⟩ :: ⟨.ml, quiet⟩ :: ⟨.ml, quiet⟩ :: ⟨.ml, quiet⟩ :: []
      ∧ (waiting [0x01, 0x01] []).faulted = false ∧ (waiting [0x01, 0x01] []).mlp = .p3Dispatch
      ∧ (waiting [0x01, 0x01] []).ds = .waitOpcode ∧ (waiting [0x01, 0x01] []).q = 0x01 :: 0x01 :: []
      ∧ (1#8).toNat ≤ 1 ∧ (waiting [0x01, 0x02] []).q = 0x01 :: 0x02 :: [] ∧ 2 ≤ (2#8).toNat := by decide
theorem witness_GetMeasTransaction :
    (waiting [0x02] (List.replicate 4 (ml quiet))).env
        = ⟨.ml, quiet⟩ :: ⟨.ml, quiet⟩ :: ⟨.ml, quiet⟩ :: ⟨.ml, quiet⟩ :: []
      ∧ (waiting [0x02] []).faulted = false ∧ (waiting [0x02] []).mlp = .p3Dispatch
      ∧ (waiting [0x02] []).ds = .waitOpcode ∧ (waiting [0x02] []).q = 0x02 :: [] := by decide
/-- D8 is accepted, D10b rejected. -/
theorem witness_SetPwmTransaction :
    (waiting [] (List.replicate 7 (ml quiet))).env
        = ⟨.ml, quiet⟩ :: ⟨.ml, quiet⟩ :: ⟨.ml, quiet⟩ :: ⟨.ml, quiet⟩ :: ⟨.ml, quiet⟩ :: ⟨.ml, quiet⟩
          :: ⟨.ml, quiet⟩ :: []
      ∧ (waiting [] []).faulted = false ∧ (waiting [] []).mlp = .p3Dispatch
      ∧ (waiting [] []).ds = .waitOpcode
      ∧ (waiting [0x03, 0x00, 0x64, 0x00, 0x64] []).q = 0x03 :: 0x00 :: 0x64 :: 0x00 :: 0x64 :: []
      ∧ ((100#16).toNat = (0x00#8).toNat * 256 + (0x64#8).toNat ∧ (100#16).toNat ≠ 0
        ∧ (100#16).toNat ≤ (100#16).toNat)
      ∧ ((257#16).toNat = (0x01#8).toNat * 256 + (0x01#8).toNat ∧ ¬(257#16).toNat ≤ (256#16).toNat) := by
  decide
theorem witness_FirePulseTransaction :
    (waiting [] [ml quiet, ml quiet, ml quiet, ml quiet, ⟨.rx 0x02, quiet⟩, ml quiet]).env
        = ⟨.ml, quiet⟩ :: ⟨.ml, quiet⟩ :: ⟨.ml, quiet⟩ :: ⟨.ml, quiet⟩ :: ⟨.rx 0x02, quiet⟩
          :: ⟨.ml, quiet⟩ :: []
      ∧ (waiting [] []).faulted = false ∧ (waiting [] []).mlp = .p3Dispatch
      ∧ (waiting [] []).ds = .waitOpcode ∧ (waiting [0x04, 0x01, 0xF4] []).q = 0x04 :: 0x01 :: 0xF4 :: []
      ∧ (List.replicate 127 0x02#8).length < Config.queueCapacity
      ∧ (500#16).toNat = (0x01#8).toNat * 256 + (0xF4#8).toNat := by decide +kernel
/-- The state after reset meets the invariant of the control law, and steps. -/
theorem witness_StepKeepsLawInv :
    State.reset.LawInv ∧ ∃ t, step { State.reset with env := [ml quiet] } = .next t :=
  ⟨⟨rfl, .inr (by decide), by simp [State.reset]⟩, _, rfl⟩
/-- A state in the middle of a persist meets the hypotheses that single it out. -/
theorem witness_StepKeepsInv_persist :
    { State.reset with nvsBusy := .erasedPendingProgram }.mlp = .p0Local
      ∧ { State.reset with nvsBusy := .erasedPendingProgram }.nvs = []
      ∧ (∃ t, step { State.reset with nvsBusy := .erasedPendingProgram, env := [ml quiet] } = .next t) :=
  ⟨rfl, rfl, _, rfl⟩
/-- A byte received, ML in P3: a state that meets the invariant of the reachable states. -/
theorem witness_BlockNeverStops : (waiting [0x02] [ml quiet]).Inv :=
  ⟨by decide, by decide, by decide, by decide, rfl, by simp [waiting, State.reset], fun _ => rfl,
    by decide, by decide, by decide, by decide⟩
theorem witness_StepKeepsInv :
    (waiting [0x02] [ml quiet]).Inv ∧ ∃ t, step (waiting [0x02] [ml quiet]) = .next t :=
  ⟨witness_BlockNeverStops, _, rfl⟩
theorem witness_FaultedFreezesInstructions :
    faultedState.faulted = true ∧ Instr.lopPersist ≠ .reset := by decide
theorem witness_FaultedForever :
    { faultedState with env := [ml quiet, ⟨.rx 0x02, quiet⟩] }.faulted = true
      ∧ { faultedState with env := [ml quiet] }.env = ⟨.ml, quiet⟩ :: []
      ∧ { faultedState with blinkNext := some true }.blinkNext = some true
      ∧ 2 ≤ { faultedState with env := [ml quiet, ⟨.rx 0x02, quiet⟩] }.env.length
      ∧ (∀ m ∈ { faultedState with env := [ml quiet, ⟨.rx 0x02, quiet⟩] }.env,
        m.mover = .ml ∨ ∃ b, m.mover = .rx b) :=
  ⟨rfl, rfl, rfl, by decide, by simp [ml]⟩
/-- A restart of a faulted block, and a power loss. -/
theorem witness_ResetSequence :
    { faultedState with env := [⟨.restart, quiet⟩] }.env = ⟨.restart, quiet⟩ :: []
      ∧ { State.reset with env := [⟨.powerLoss, quiet⟩] }.env = ⟨.powerLoss, quiet⟩ :: []
      ∧ readRecord State.reset.nvs = none ∧ readRecord (sectorOf (formatRecord recordS1)) = some recordS1 := by
  decide
theorem witness_HvEnabledWriters :
    nextHas (step { executing with op := 0x01, pl := ⟨1, 0, 0, 0⟩, env := [ml quiet] })
      (fun t => t.hvEnabled != executing.hvEnabled) = true := by decide
theorem witness_TuningFixedAfterReset :
    (∃ t, step { State.reset with env := [ml quiet] } = .next t)
      ∧ (nextMove { State.reset with env := [ml quiet] }).mover ≠ .restart
      ∧ (nextMove { State.reset with env := [ml quiet] }).mover ≠ .powerLoss := ⟨⟨_, rfl⟩, by decide, by decide⟩
theorem witness_TraceGrowsAndTxOnlyInRespond :
    nextHas (step { responding with op := 0x04, env := [ml quiet] })
      (fun t => t.trace == responding.trace ++ [.tx 0x04]) = true := by decide
theorem witness_FaultCauseUnread : ∃ t, step { State.reset with env := [ml quiet] } = .next t := ⟨_, rfl⟩

end Sys2Proof.Tests
end

section
/-! SUPPORT. The trace: what each atomic step of the block appends to it, and that a byte is sent only by
ML in RESPOND (00_scope R9, 20_memory R72, 43_command R195). -/

namespace Sys2Proof.Machine

/-! ## Steps that send no byte -/

/-- `t` has the trace of `s` with events after it, none of which is a byte sent. -/
def GrowsSilently (s t : State) : Prop := ∃ es, t.trace = s.trace ++ es ∧ ∀ b, Event.tx b ∉ es

theorem GrowsSilently.of_trace_eq {s t : State} (h : t.trace = s.trace) : GrowsSilently s t :=
  ⟨[], by simp [h], by simp⟩

theorem GrowsSilently.of_event {s t : State} {e : Event} (he : ∀ b, Event.tx b ≠ e)
    (h : t.trace = s.trace ++ [e]) : GrowsSilently s t :=
  ⟨[e], h, by simpa using he⟩

theorem execRxEvent_trace {b : Byte} {s t : State} (h : execRxEvent b s = .next t) : t.trace = s.trace := by
  obtain ⟨-, rfl⟩ | ⟨-, h⟩ := whenLive_eq_next h
  · rfl
  · cases hq : qPush b s with
    | some u =>
      obtain ⟨-, rfl⟩ := qPush_eq_some hq
      rw [hq] at h; cases h; rfl
    | none => rw [hq] at h; cases h; rfl

theorem execReset_grows {s t : State} (h : execReset s = .next t) : GrowsSilently s t := by
  cases h
  exact .of_event (e := .setHv false) (by simp) (by simp [newController])

theorem takeRequest_grows {k : State → State} {s t : State} (hk : GrowsSilently s (k s))
    (h : takeRequest s k = .next t) : GrowsSilently s t := by
  obtain rfl | ⟨-, -, -, rfl⟩ := takeRequest_eq_next h
  · exact .of_trace_eq rfl
  · exact hk

theorem writeRecordStep_grows {r : Record} {s t : State} (h : writeRecordStep r s = .next t) :
    GrowsSilently s t := by
  obtain ⟨-, rfl⟩ | ⟨-, -, rfl⟩ := writeRecordStep_eq_next h
  · exact .of_event (e := .erase) (by simp) rfl
  · exact .of_event (e := .program (formatRecord r)) (by simp) rfl

/-- A persist request does nothing, or is a step of its record write, after which only the phase may
change (44_supervisor R240). -/
theorem execLopPersist_grows {s t : State} (h : execLopPersist s = .next t) : GrowsSilently s t := by
  obtain ⟨-, rfl⟩ | ⟨-, h⟩ := whenLive_eq_next h
  · exact .of_trace_eq rfl
  · split at h
    · obtain ⟨u, hu, ht⟩ := andThen_eq_next.mp h
      have hw := writeRecordStep_grows hu
      split at ht <;> cases ht <;> exact hw
    · cases h; exact .of_trace_eq rfl

theorem execSupEval_grows {s t : State} (h : execSupEval s = .next t) : GrowsSilently s t := by
  obtain ⟨-, rfl⟩ | ⟨-, h⟩ := whenLive_eq_next h
  · exact .of_trace_eq rfl
  · cases h
    exact ⟨[.setIndicator .hazard (danger s), .setIndicator .safe (!danger s)], by simp, by simp⟩

/-! ## The phases of ML outside P3 -/

theorem localPhase_grows {s t : State} (h : localPhase s = .next t) : GrowsSilently s t := by
  unfold localPhase at h
  split at h
  · exact execLopPersist_grows h
  · split at h
    · cases h; exact .of_trace_eq rfl
    · exact takeRequest_grows (.of_trace_eq rfl) h
    · exact takeRequest_grows (.of_event (e := .lopResult s.setpoint) (by simp) rfl) h
    · exact execLopPersist_grows h

theorem controlPhase_grows {s t : State} (h : controlPhase s = .next t) : GrowsSilently s t := by
  unfold controlPhase at h
  split at h
  · cases h
    exact .of_event (e := .ctlOut (controlStep s.meas s.ports.now s).1) (by simp) rfl
  · cases h; exact .of_trace_eq rfl

theorem supervisePhase_grows {s t : State} (h : supervisePhase s = .next t) : GrowsSilently s t := by
  obtain ⟨u, hu, ht⟩ := andThen_eq_next.mp h
  have hg : GrowsSilently s u := execSupEval_grows hu
  cases ht
  exact hg

/-! ## Phase P3 -/

/-- The step sent no byte, or the dispatcher was in RESPOND and the step sent one byte and nothing else. -/
def SendsOnlyInRespond (s t : State) : Prop :=
  GrowsSilently s t ∨ (s.ds = .respond ∧ ∃ b, t.trace = s.trace ++ [.tx b])

theorem commandStep_sends {ex : State → Result} {resp : List Byte} {s t : State}
    (hex : ex s = .next t → GrowsSilently s t) (h : commandStep ex resp s = .next t) :
    SendsOnlyInRespond s t := by
  obtain rfl | ⟨-, -, he⟩ | ⟨-, hd, hr⟩ := commandStep_eq_next h
  · exact .inl (.of_trace_eq rfl)
  · exact .inl (hex he)
  · obtain ⟨-, rfl⟩ | ⟨b, -, ⟨-, rfl⟩ | ⟨-, rfl⟩⟩ := respondByte_eq_next hr
    · exact .inl (.of_trace_eq rfl)
    · exact .inr ⟨hd, b, rfl⟩
    · exact .inr ⟨hd, b, rfl⟩

theorem execUndefined_trace {op : Byte} {s t : State} (h : execUndefined op s = .next t) :
    t.trace = s.trace := by
  obtain ⟨-, rfl⟩ | ⟨-, h⟩ := whenLive_eq_next h
  · rfl
  · cases h; rfl

theorem execHvEnable_sends {en : Byte} {s t : State} (h : execHvEnable en s = .next t) :
    SendsOnlyInRespond s t := by
  refine commandStep_sends (fun he => ?_) h
  split at he <;> cases he
  · exact .of_trace_eq rfl
  · exact .of_event (e := .setHv (en == 1#8)) (by simp) rfl

theorem execGetMeas_sends {s t : State} (h : execGetMeas s = .next t) : SendsOnlyInRespond s t := by
  refine commandStep_sends (fun he => ?_) h
  cases he
  exact .of_trace_eq rfl

theorem execSetPwm_sends {period width : U16} {s t : State} (h : execSetPwm period width s = .next t) :
    SendsOnlyInRespond s t := by
  refine commandStep_sends (fun he => ?_) h
  split at he <;> cases he
  · exact .of_event (e := .setPwm period width) (by simp) rfl
  · exact .of_trace_eq rfl

theorem execFirePulse_sends {duration : U16} {s t : State} (h : execFirePulse duration s = .next t) :
    SendsOnlyInRespond s t := by
  refine commandStep_sends (fun he => ?_) h
  cases he
  exact .of_event (e := .firePulse duration) (by simp) rfl

/-- The execute part of a command emits at most its own effect; its bytes go out in RESPOND (R194, R195). -/
theorem exec_command_sends {i : Instr} {s t : State} (hi : i.isCommand = true) (h : exec i s = .next t) :
    SendsOnlyInRespond s t := by
  cases i with
  | hvEnable en => exact execHvEnable_sends h
  | getMeas => exact execGetMeas_sends h
  | setPwm period width => exact execSetPwm_sends h
  | firePulse duration => exact execFirePulse_sends h
  | undefined op => exact .inl (.of_trace_eq (execUndefined_trace h))
  | _ => cases hi

theorem latchedInstr_isCommand (s : State) : (latchedInstr s).isCommand = true := by
  unfold latchedInstr decodeFrame; split_ifs <;> rfl

theorem fetchOpcode_trace {b : Byte} {s t : State} (h : fetchOpcode b s = .next t) : t.trace = s.trace := by
  unfold fetchOpcode at h
  split at h
  · cases h; rfl
  · exact execUndefined_trace h

theorem dispatchPhase_sends {s t : State} (h : dispatchPhase s = .next t) : SendsOnlyInRespond s t := by
  unfold dispatchPhase at h
  split at h
  case h_1 =>
    cases hq : qPop s with
    | none => rw [hq] at h; cases h; exact .inl (.of_trace_eq rfl)
    | some p =>
      obtain ⟨b, u⟩ := p
      obtain ⟨rest, -, rfl⟩ := qPop_eq_some hq
      rw [hq] at h
      exact .inl (.of_trace_eq (fetchOpcode_trace h :))
  case h_2 =>
    cases hq : qPop s with
    | none => rw [hq] at h; cases h; exact .inl (.of_trace_eq rfl)
    | some p =>
      obtain ⟨b, u⟩ := p
      obtain ⟨rest, -, rfl⟩ := qPop_eq_some hq
      rw [hq] at h; cases h; exact .inl (.of_trace_eq rfl)
  case h_3 => exact exec_command_sends (latchedInstr_isCommand s) h
  case h_4 => exact exec_command_sends (latchedInstr_isCommand s) h

/-! ## Every step -/

/-- A step of ML sends no byte, or ML is live in P3 with the dispatcher in RESPOND. -/
theorem mlStep_trace_cases {s t : State} (h : mlStep s = .next t) :
    GrowsSilently s t ∨ (s.faulted = false ∧ s.mlp = .p3Dispatch ∧ s.ds = .respond
      ∧ ∃ b, t.trace = s.trace ++ [.tx b]) := by
  cases hf : s.faulted with
  | true =>
    rw [mlStep_faulted hf] at h; cases h
    exact .inl (.of_event (e := .setIndicator .hazard (blinkValue s)) (by simp) rfl)
  | false =>
    unfold mlStep at h
    rw [hf] at h
    cases hp : s.mlp <;> rw [hp] at h
    case p0Local => exact .inl (localPhase_grows h)
    case p1Sample => cases h; exact .inl (.of_trace_eq rfl)
    case p2Control => exact .inl (controlPhase_grows h)
    case p3Dispatch => exact (dispatchPhase_sends h).imp_right fun ⟨hd, hb⟩ => ⟨rfl, rfl, hd, hb⟩
    case p4Supervise => exact .inl (supervisePhase_grows h)

/-- A step changes nothing in the trace, or someone other than RX moves and no byte is sent, or ML sends one
byte in RESPOND. -/
theorem step_trace_cases {s t : State} (h : step s = .next t) :
    t.trace = s.trace
    ∨ ((∀ b, (nextMove s).mover ≠ .rx b) ∧ GrowsSilently s t)
    ∨ ((nextMove s).mover = .ml ∧ s.faulted = false ∧ s.mlp = .p3Dispatch ∧ s.ds = .respond
      ∧ ∃ b, t.trace = s.trace ++ [.tx b]) := by
  have h : perform (nextMove s).mover (withMove s) = .next t := h
  cases hm : (nextMove s).mover <;> rw [hm] at h
  case rx b => exact .inl (execRxEvent_trace (s := withMove s) h)
  case ml =>
    obtain hg | hsend := mlStep_trace_cases h
    · exact .inr (.inl ⟨by simp, hg⟩)
    · exact .inr (.inr ⟨rfl, hsend⟩)
  case restart => exact .inr (.inl ⟨by simp, execReset_grows (s := withMove s) h⟩)
  case powerLoss => exact .inr (.inl ⟨by simp, execReset_grows (s := withMove s) h⟩)

/-- Settles O58: by the three things a step can do to the trace. -/
theorem traceGrowsAndTxOnlyInRespond : Obligations.TraceGrowsAndTxOnlyInRespond := by
  intro s t h
  obtain ht | ⟨hrx, es, ht, hno⟩ | ⟨hm, hf, hp, hd, b, ht⟩ := step_trace_cases h
  · exact ⟨[], by simp [ht], fun _ _ => rfl, by simp⟩
  · exact ⟨es, ht, fun b hb => absurd hb (hrx b), fun b hb => absurd hb (hno b)⟩
  · exact ⟨[.tx b], ht, by simp [hm], fun _ _ => ⟨hm, hf, hp, hd⟩⟩

end Sys2Proof.Machine
end

section
/-! SUPPORT. Binary32 arithmetic (00_scope R7): each operation on finite operands, on infinities and on NaN,
from the rounding law of Laws/Float.lean. -/

namespace Sys2Proof.Machine

/-! ## Classes -/

theorem f32IsNaN_of_isInf {x : F32} (h : f32IsInf x = true) : f32IsNaN x = false := by
  simp only [f32IsInf, decide_eq_true_eq] at h
  simp [f32IsNaN, h]

theorem f32Key_of_isInf {x : F32} (h : f32IsInf x = true) :
    f32Key x = if f32Neg x then -(f32InfMag : Int) else f32InfMag := by
  simp only [f32IsInf, decide_eq_true_eq] at h
  rw [f32Key, h]

/-- A pattern is its sign and its magnitude bits. -/
theorem eq_of_neg_of_mag {x y : F32} (hn : f32Neg x = f32Neg y) (hm : f32Mag x = f32Mag y) : x = y := by
  apply BitVec.eq_of_toNat_eq
  have hx := x.isLt
  have hy := y.isLt
  simp only [f32Neg, decide_eq_decide] at hn
  simp only [f32Mag] at hm
  omega

theorem f32Pack_infMag (neg : Bool) :
    f32IsInf (f32Pack neg f32InfMag) = true ∧ f32Neg (f32Pack neg f32InfMag) = neg := by
  cases neg <;> decide

/-! ## Sums and products of finite values -/

theorem roundMag_zero (sh : Nat) : roundMag 0 sh = 0 := by
  simp [roundMag, roundShift, dropBits]

/-- A sum of finite values is the exact sum rounded; a zero sum takes its sign from the operands. -/
theorem fadd_of_finite {a b : F32} (ha : f32Finite a = true) (hb : f32Finite b = true) :
    fadd a b = f32Round
      (if f32Int a + f32Int b = 0 then f32Neg a && f32Neg b else decide (f32Int a + f32Int b < 0))
      (f32Int a + f32Int b).natAbs 0 := by
  obtain ⟨hna, hia⟩ := f32Finite_iff.1 ha
  obtain ⟨hnb, hib⟩ := f32Finite_iff.1 hb
  by_cases h0 : f32Int a + f32Int b = 0
  · simp [fadd, hna, hia, hnb, hib, h0, f32Round, roundMag_zero]
  · simp [fadd, hna, hia, hnb, hib, h0]

theorem fadd_rounded {a b : F32} (ha : f32Finite a = true) (hb : f32Finite b = true) :
    RoundedTo (fadd a b) (f32Int a + f32Int b) 0 := by
  rw [fadd_of_finite ha hb]
  exact f32Round_rounded rfl fun h => if_neg h

theorem f32Neg_fadd_of_sum_zero {a b : F32} (ha : f32Finite a = true) (hb : f32Finite b = true)
    (h : f32Int a + f32Int b = 0) : f32Neg (fadd a b) = (f32Neg a && f32Neg b) := by
  rw [fadd_of_finite ha hb, if_pos h, (f32Round_spec ..).1]

theorem fmul_of_finite {a b : F32} (ha : f32Finite a = true) (hb : f32Finite b = true) :
    fmul a b = f32Round (f32Neg a != f32Neg b) (f32Units a * f32Units b) 149 := by
  obtain ⟨hna, hia⟩ := f32Finite_iff.1 ha
  obtain ⟨hnb, hib⟩ := f32Finite_iff.1 hb
  simp [fmul, hna, hia, hnb, hib]

/-- A product that is not zero is negative exactly when the signs of the operands differ. -/
theorem f32Int_mul_neg {a b : F32} (h : f32Int a * f32Int b ≠ 0) :
    (f32Neg a != f32Neg b) = decide (f32Int a * f32Int b < 0) := by
  have hpos : (0 : Int) < f32Units a * f32Units b := by
    have hab : f32Units a ≠ 0 ∧ f32Units b ≠ 0 := by
      simpa only [ne_eq, mul_eq_zero, not_or, ← Int.natAbs_eq_zero, f32Int_natAbs] using h
    have := Nat.mul_pos (Nat.pos_of_ne_zero hab.1) (Nat.pos_of_ne_zero hab.2)
    exact_mod_cast this
  cases ha : f32Neg a <;> cases hb : f32Neg b <;> simp [f32Int, ha, hb] <;> omega

theorem fmul_rounded {a b : F32} (ha : f32Finite a = true) (hb : f32Finite b = true) :
    RoundedTo (fmul a b) (f32Int a * f32Int b) 149 := by
  rw [fmul_of_finite ha hb]
  exact f32Round_rounded (by rw [Int.natAbs_mul, f32Int_natAbs, f32Int_natAbs]) f32Int_mul_neg

theorem flt_of_finite {a b : F32} (ha : f32Finite a = true) (hb : f32Finite b = true) :
    flt a b = decide (f32Int a < f32Int b) := by
  simp [flt, (f32Finite_iff.1 ha).1, (f32Finite_iff.1 hb).1, f32Int_lt_iff]

/-! ## Infinities -/

/-- Infinity plus a number that is not the opposite infinity, in either order, is that infinity. -/
theorem fadd_inf {a b : F32} (hb : f32IsNaN b = false) (hi : f32IsInf a = true)
    (h : f32IsInf b = false ∨ f32Neg a = f32Neg b) : fadd a b = a ∧ fadd b a = a := by
  have ha := f32IsNaN_of_isInf hi
  cases hib : f32IsInf b with
  | false => simp [fadd, ha, hb, hi, hib]
  | true =>
    have hs : f32Neg a = f32Neg b := h.resolve_left (by simp [hib])
    have hab : a = b := by
      simp only [f32IsInf, decide_eq_true_eq] at hi hib
      exact eq_of_neg_of_mag hs (by rw [hi, hib])
    subst hab
    simp [fadd, ha, hi]

theorem fadd_opposite_inf {a b : F32} (ha : f32IsInf a = true) (hb : f32IsInf b = true)
    (hs : f32Neg a ≠ f32Neg b) : f32IsNaN (fadd a b) = true := by
  simp [fadd, f32IsNaN_of_isInf ha, f32IsNaN_of_isInf hb, ha, hb, hs]

theorem fmul_inf {a b : F32} (hb : f32IsNaN b = false) (hi : f32IsInf a = true) (h0 : f32Mag b ≠ 0) :
    f32IsInf (fmul a b) = true ∧ f32IsInf (fmul b a) = true := by
  have ha := f32IsNaN_of_isInf hi
  have ha0 : f32Mag a ≠ 0 := by
    simp only [f32IsInf, decide_eq_true_eq] at hi
    rw [hi]; decide
  simp [fmul, ha, hb, hi, h0, ha0, f32Pack_infMag]

theorem fmul_inf_zero {a b : F32} (hi : f32IsInf a = true) (h0 : f32Mag b = 0) :
    f32IsNaN (fmul a b) = true ∧ f32IsNaN (fmul b a) = true := by
  have hb : f32IsNaN b = false := by simp [f32IsNaN, h0]
  simp [fmul, f32IsNaN_of_isInf hi, hb, hi, h0]

/-- A product that is a number has the sign of its operands. -/
theorem f32Neg_fmul {a b : F32} (h : f32IsNaN (fmul a b) = false) :
    f32Neg (fmul a b) = (f32Neg a != f32Neg b) := by
  unfold fmul at h ⊢
  dsimp only at h ⊢
  split_ifs at h ⊢ with hn hi h0
  · simp at h
  · simp at h
  · exact (f32Pack_infMag _).2
  · exact (f32Round_spec ..).1

/-- Against a finite value an infinity is the smaller exactly when it is negative. -/
theorem flt_inf_finite {a b : F32} (hb : f32IsNaN b = false) (hi : f32IsInf a = true)
    (hib : f32IsInf b = false) : flt a b = f32Neg a ∧ flt b a = !f32Neg a := by
  have ha := f32IsNaN_of_isInf hi
  have hlt : f32Mag b < f32InfMag := of_decide_eq_true (f32Finite_iff.2 ⟨hb, hib⟩)
  have hk := f32Key_natAbs b
  cases hs : f32Neg a <;> simp [flt, ha, hb, f32Key_of_isInf hi, hs] <;> omega

theorem flt_inf_inf {a b : F32} (ha : f32IsInf a = true) (hb : f32IsInf b = true) :
    flt a b = (f32Neg a && !f32Neg b) := by
  simp only [flt, f32IsNaN_of_isInf ha, f32IsNaN_of_isInf hb, f32Key_of_isInf ha, f32Key_of_isInf hb]
  cases f32Neg a <;> cases f32Neg b <;> decide

/-! ## NaN operands -/

theorem fmul_nan {a b : F32} (h : f32IsNaN a = true ∨ f32IsNaN b = true) :
    f32IsNaN (fmul a b) = true := by rcases h with h | h <;> simp [fmul, h]

theorem flt_nan {a b : F32} (h : f32IsNaN a = true ∨ f32IsNaN b = true) : flt a b = false := by
  rcases h with h | h <;> simp [flt, h]

/-! ## Conversions -/

/-- Sixteen significant bits leave nothing to round. -/
theorem roundMag_u16 (m : U16) :
    roundMag (m.toNat <<< 149) 0 < f32InfMag ∧ magUnits (roundMag (m.toNat <<< 149) 0) = m.toNat <<< 149 := by
  have hm := m.isLt
  rw [Nat.shiftLeft_eq]
  have hlog : (m.toNat * 2 ^ 149).log2 < 165 := by
    by_cases h0 : m.toNat * 2 ^ 149 = 0
    · rw [h0]; decide
    · rw [Nat.log2_lt h0]; omega
  have hdrop : dropBits (m.toNat * 2 ^ 149) 0 ≤ 149 := by unfold dropBits; omega
  exact roundMag_exact ((Nat.pow_dvd_pow 2 hdrop).mul_left _) (by omega)

theorem f32OfU16_exact (m : U16) : f32Finite (f32OfU16 m) = true ∧ f32Neg (f32OfU16 m) = false
    ∧ f32Int (f32OfU16 m) = m.toNat * 2 ^ 149 := by
  obtain ⟨hneg, hmag, -⟩ := f32Round_spec false (m.toNat <<< 149) 0
  obtain ⟨hlt, hunits⟩ := roundMag_u16 m
  rw [← hmag] at hlt hunits
  refine ⟨decide_eq_true hlt, hneg, ?_⟩
  rw [f32Int, f32OfU16, hneg, f32Units, hunits, Nat.shiftLeft_eq]
  simp

/-- The keys between those of 0.0 and 65536.0 are those of the values between. -/
theorem f32Key_u16_range {a : F32} (h0 : 0 ≤ f32Int a) (h1 : f32Int a < 65536 * 2 ^ 149) :
    0 ≤ f32Key a ∧ f32Key a < 0x47800000 := by
  have hz : f32Int 0#32 = 0 ∧ f32Key 0#32 = 0 := by decide
  have ht : f32Int 0x47800000#32 = 65536 * 2 ^ 149 ∧ f32Key 0x47800000#32 = 0x47800000 := by decide
  constructor
  · rw [← hz.1, ← not_lt, f32Int_lt_iff, hz.2] at h0
    exact not_lt.1 h0
  · rwa [← ht.1, f32Int_lt_iff, ht.2] at h1

/-- Truncation in its domain is the integer part. -/
theorem truncU16_toNat {a : F32} (ha : f32Finite a = true) (h0 : 0 ≤ f32Int a)
    (h1 : f32Int a < 65536 * 2 ^ 149) : ((truncU16 a).toNat : Int) = f32Int a / 2 ^ 149 := by
  obtain ⟨hk0, hk1⟩ := f32Key_u16_range h0 h1
  have hval : truncU16 a = BitVec.ofNat 16 (f32Units a >>> 149) := by
    simp [truncU16, (f32Finite_iff.1 ha).1, hk0, hk1]
  have hunits : (f32Units a : Int) = f32Int a := by
    rw [← f32Int_natAbs, Int.natAbs_of_nonneg h0]
  rw [hval, BitVec.toNat_ofNat, Nat.shiftRight_eq_div_pow, ← hunits]
  rw [← hunits] at h1
  omega

/-- Settles O60: the cases of each operation in turn. -/
theorem binary32Arithmetic : Obligations.Binary32Arithmetic :=
  ⟨fun _ _ ha hb => ⟨fadd_rounded ha hb, f32Neg_fadd_of_sum_zero ha hb, fmul_rounded ha hb,
      flt_of_finite ha hb⟩,
    fun _ _ _ hb => ⟨fadd_inf hb, fadd_opposite_inf, fmul_inf hb, fmul_inf_zero, f32Neg_fmul,
      flt_inf_finite hb, flt_inf_inf⟩,
    fun _ _ h => ⟨fadd_nan h, fmul_nan h, flt_nan h⟩,
    fun _ _ => ⟨rfl, rfl⟩,
    fun a => ⟨f32Mag_fneg a, f32Neg_fneg a, f32Mag_fabs a, f32Neg_fabs a⟩,
    f32OfU16_exact,
    fun _ => truncU16_toNat⟩

end Sys2Proof.Machine
end

section
/-! SUPPORT. What one atomic step can do, said once: the execute and response steps of a latched command
(`CommandStep`), the steps of a live ML (`MlStep`), and the steps of RX and of the reset sequence. A claim
about every step is then a case analysis of these relations. -/

namespace Sys2Proof.Machine

/-! ## The latched command (43_command R194 to R200) -/

/-- The next atomic step of the command in the latches, from `s` to `t`. -/
inductive CommandStep (s : State) : State → Prop
  /-- HV_ENABLE executes with an enable byte in range (R196). -/
  | hvEnable (en : Bool) (hd : s.ds = .execute) (hop : s.op = 0x01#8) :
      CommandStep s { emit (.setHv en) { s with hvEnabled := en } with rsi := 0, ds := .respond }
  /-- HV_ENABLE executes with an enable byte above 1 (R253). -/
  | badEnable (hd : s.ds = .execute) (hop : s.op = 0x01#8) : CommandStep s (fatal .badEnableValue s)
  /-- GET_MEAS, or SET_PWM with rejected parameters, executes (R197, R198). -/
  | noEffect (hd : s.ds = .execute) : CommandStep s { s with rsi := 0, ds := .respond }
  /-- SET_PWM executes with accepted parameters (R198). -/
  | setPwm (period width : U16) (hd : s.ds = .execute) :
      CommandStep s
        { emit (.setPwm period width) { s with pwmPeriod := period, pwmWidth := width } with
          rsi := 0, ds := .respond }
  /-- FIRE_PULSE executes (R199). -/
  | firePulse (duration : U16) (hd : s.ds = .execute) :
      CommandStep s { emit (.firePulse duration) s with rsi := 0, ds := .respond }
  /-- An undefined opcode in the latches, which no run reaches (R200). -/
  | undefinedLatched (hd : s.ds = .execute ∨ s.ds = .respond) (hop : definedOpcode s.op = false) :
      CommandStep s (fatal .unknownOpcode { s with plc := 0 })
  /-- Every response byte is sent already, which no run reaches. -/
  | pastEnd (hd : s.ds = .respond) : CommandStep s s
  /-- A response byte is sent and more are to come (R195). -/
  | respondByte (b : Byte) (hd : s.ds = .respond) (hr : s.rsi + 1 < responseLength s.op) :
      CommandStep s (emit (.tx b) { s with rsi := s.rsi + 1 })
  /-- The last response byte is sent: the transaction is complete (R195). -/
  | respondLast (b : Byte) (hd : s.ds = .respond) (hr : s.rsi + 1 = responseLength s.op) :
      CommandStep s
        (emit (.tx b) { s with rsi := s.rsi + 1, ds := .waitOpcode, mlp := .p4Supervise })

/-- A response step, for a response of the length its opcode has. -/
theorem CommandStep.of_respondByte {resp : List Byte} {s t : State} (hd : s.ds = .respond)
    (hl : resp.length = responseLength s.op) (h : Machine.respondByte resp s = .next t) :
    CommandStep s t := by
  obtain ⟨-, rfl⟩ | ⟨b, hb, ⟨hr, rfl⟩ | ⟨hr, rfl⟩⟩ := respondByte_eq_next h
  · exact .pastEnd hd
  · exact .respondLast b hd (hr.trans hl)
  · obtain ⟨hlt, -⟩ := List.getElem?_eq_some_iff.mp hb
    exact .respondByte b hd (by omega)

/-- A command in EXECUTE or RESPOND does the step its execute part does, or a response step. -/
theorem CommandStep.of_commandStep {ex : State → Result} {resp : List Byte} {s t : State}
    (hf : s.faulted = false) (hd : s.ds = .execute ∨ s.ds = .respond)
    (hex : s.ds = .execute → ex s = .next t → CommandStep s t)
    (hl : resp.length = responseLength s.op) (h : commandStep ex resp s = .next t) :
    CommandStep s t := by
  obtain hd | hd := hd
  · rw [commandStep_execute hf hd] at h
    exact hex hd h
  · rw [commandStep_respond hf hd] at h
    exact .of_respondByte hd hl h

theorem CommandStep.of_exec_latched {s t : State} (hf : s.faulted = false)
    (hd : s.ds = .execute ∨ s.ds = .respond) (h : exec (latchedInstr s) s = .next t) :
    CommandStep s t := by
  unfold latchedInstr decodeFrame at h
  split_ifs at h with h1 h2 h3 h4
  · replace h : execHvEnable _ s = .next t := h
    refine .of_commandStep hf hd (fun hd he => ?_) (by rw [h1]; rfl) h
    split at he <;> cases he
    · exact .badEnable hd h1
    · exact .hvEnable _ hd h1
  · replace h : execGetMeas s = .next t := h
    refine .of_commandStep hf hd (fun hd he => ?_) (by rw [h2]; rfl) h
    cases he
    exact .noEffect hd
  · replace h : execSetPwm _ _ s = .next t := h
    refine .of_commandStep hf hd (fun hd he => ?_) ?_ h
    · split at he <;> cases he
      · exact .setPwm _ _ hd
      · exact .noEffect hd
    · rw [h3]
      unfold respSetPwm
      split <;> rfl
  · replace h : execFirePulse _ s = .next t := h
    refine .of_commandStep hf hd (fun hd he => ?_) (by rw [h4]; rfl) h
    cases he
    exact .firePulse _ hd
  · have hu : execUndefined s.op s = .next (fatal .unknownOpcode { s with plc := 0 }) :=
      whenLive_of_live _ hf
    have h : execUndefined s.op s = .next t := h
    cases hu.symm.trans h
    exact .undefinedLatched hd (by simp [definedOpcode, h1, h2, h3, h4])

/-! ## The phases of ML (44_supervisor R233 to R238) -/

/-- The next atomic step of a live ML, from `s` to `t`. -/
inductive MlStep (s : State) : State → Prop
  /-- P0 with no request offered (R234). -/
  | noRequest (hp : s.mlp = .p0Local) (hb : s.nvsBusy = .idle) : MlStep s { s with mlp := .p1Sample }
  /-- P0 takes SET_SETPOINT (R240). -/
  | setSetpoint (v : F32) (hp : s.mlp = .p0Local) (hb : s.nvsBusy = .idle) :
      MlStep s { storeSetpoint v s with mlp := .p1Sample }
  /-- P0 takes GET_SETPOINT (R240). -/
  | getSetpoint (hp : s.mlp = .p0Local) (hb : s.nvsBusy = .idle) :
      MlStep s { emit (.lopResult s.setpoint) s with mlp := .p1Sample }
  /-- P0 takes PERSIST: the erase (R134, R240). -/
  | persistErase (hp : s.mlp = .p0Local) (hb : s.nvsBusy = .idle) :
      MlStep s { eraseSector s with nvsBusy := .erasedPendingProgram }
  /-- P0 ends a PERSIST: the program (R134, R240). -/
  | persistProgram (w : RecordWords) (hp : s.mlp = .p0Local) (hb : s.nvsBusy = .erasedPendingProgram) :
      MlStep s
        { emit (.program w) { s with nvs := nvsProgram s.nvs w } with
          nvsBusy := .idle, mlp := .p1Sample }
  /-- P1 (R235). -/
  | sample (hp : s.mlp = .p1Sample) : MlStep s { s with meas := s.ports.adc, mlp := .p2Control }
  /-- P2 with a control step due (R236). -/
  | control (hp : s.mlp = .p2Control) :
      MlStep s
        { emit (.ctlOut (controlStep s.meas s.ports.now s).1) (controlStep s.meas s.ports.now s).2 with
          mlp := .p3Dispatch }
  /-- P2 with no control step due (R236). -/
  | noControl (hp : s.mlp = .p2Control) : MlStep s { s with mlp := .p3Dispatch }
  /-- P3 with no byte to begin a transaction with (R191). -/
  | noCommand (hp : s.mlp = .p3Dispatch) (hd : s.ds = .waitOpcode) :
      MlStep s { s with mlp := .p4Supervise }
  /-- P3 takes a defined opcode (R192). -/
  | fetch (b : Byte) (rest : List Byte) (hp : s.mlp = .p3Dispatch) (hd : s.ds = .waitOpcode)
      (hq : s.q = b :: rest) (hop : definedOpcode b = true) :
      MlStep s
        { s with q := rest, op := b, plc := 0, ds := if npl b = 0 then .execute else .readPayload }
  /-- P3 takes an undefined opcode (R192, R200). -/
  | fetchUndefined (b : Byte) (rest : List Byte) (hp : s.mlp = .p3Dispatch) (hd : s.ds = .waitOpcode)
      (hq : s.q = b :: rest) :
      MlStep s (fatal .unknownOpcode { s with q := rest, op := b, plc := 0 })
  /-- P3 is held: no payload byte is there (R193). -/
  | held (hp : s.mlp = .p3Dispatch) (hd : s.ds = .readPayload) (hq : s.q = []) : MlStep s s
  /-- P3 takes a payload byte (R193). -/
  | payload (b : Byte) (rest : List Byte) (hp : s.mlp = .p3Dispatch) (hd : s.ds = .readPayload)
      (hq : s.q = b :: rest) :
      MlStep s
        { s with
          q := rest, pl := s.pl.set s.plc b, plc := s.plc + 1
          ds := if s.plc + 1 = npl s.op then .execute else .readPayload }
  /-- P3 runs the command in the latches (R194, R195). -/
  | command {t : State} (hp : s.mlp = .p3Dispatch) (h : CommandStep s t) : MlStep s t
  /-- P4 (R231, R238). -/
  | supervise (hp : s.mlp = .p4Supervise) :
      MlStep s
        { emit (.setIndicator .safe (!danger s))
            (emit (.setIndicator .hazard (danger s)) { s with indHazard := danger s, indSafe := !danger s })
          with mlp := .p0Local }

/-- A request offered in P0 to a live ML in no persist is taken. -/
theorem takeRequest_taken {s : State} (k : State → State) (hf : s.faulted = false)
    (hp : s.mlp = .p0Local) (hb : s.nvsBusy = .idle) :
    takeRequest s k = .next { k s with mlp := .p1Sample } := by
  simp [takeRequest, whenLive_of_live, inLocalPhase, hf, hp, hb]

theorem MlStep.of_lopPersist {s t : State} (hf : s.faulted = false) (hp : s.mlp = .p0Local)
    (h : execLopPersist s = .next t) : MlStep s t := by
  have hl : inLocalPhase s = true := by simp [inLocalPhase, hp]
  rw [execLopPersist, whenLive_of_live _ hf, if_pos hl] at h
  obtain ⟨u, hu, ht⟩ := andThen_eq_next.mp h
  obtain ⟨hb, rfl⟩ | ⟨hb, -, rfl⟩ := writeRecordStep_eq_next hu <;> cases ht
  · exact .persistErase hp hb
  · exact .persistProgram _ hp hb

theorem MlStep.of_localPhase {s t : State} (hf : s.faulted = false) (hp : s.mlp = .p0Local)
    (h : localPhase s = .next t) : MlStep s t := by
  unfold localPhase at h
  split at h
  · exact .of_lopPersist hf hp h
  · next hb =>
    split at h
    · cases h
      exact .noRequest hp hb
    · next v _ =>
      cases (takeRequest_taken (storeSetpoint v) hf hp hb).symm.trans h
      exact .setSetpoint v hp hb
    · cases (takeRequest_taken (fun s => emit (.lopResult s.setpoint) s) hf hp hb).symm.trans h
      exact .getSetpoint hp hb
    · exact .of_lopPersist hf hp h

theorem MlStep.of_controlPhase {s t : State} (hp : s.mlp = .p2Control) (h : controlPhase s = .next t) :
    MlStep s t := by
  unfold controlPhase at h
  split at h <;> cases h
  · exact .control hp
  · exact .noControl hp

theorem MlStep.of_fetchOpcode {s t : State} {b : Byte} {rest : List Byte} (hf : s.faulted = false)
    (hp : s.mlp = .p3Dispatch) (hd : s.ds = .waitOpcode) (hq : s.q = b :: rest)
    (h : fetchOpcode b { s with q := rest } = .next t) : MlStep s t := by
  unfold fetchOpcode at h
  split at h
  · next hop =>
    cases h
    exact .fetch b rest hp hd hq hop
  · have hu : execUndefined b { s with q := rest } =
        .next (fatal .unknownOpcode { s with q := rest, op := b, plc := 0 }) := whenLive_of_live _ hf
    cases hu.symm.trans h
    exact .fetchUndefined b rest hp hd hq

theorem MlStep.of_dispatchPhase {s t : State} (hf : s.faulted = false) (hp : s.mlp = .p3Dispatch)
    (h : dispatchPhase s = .next t) : MlStep s t := by
  unfold dispatchPhase at h
  split at h
  · next hd =>
    cases hq : s.q with
    | nil =>
      rw [qPop_eq_none.mpr hq] at h; cases h
      exact .noCommand hp hd
    | cons b rest =>
      rw [qPop_cons hq] at h
      exact .of_fetchOpcode hf hp hd hq h
  · next hd =>
    cases hq : s.q with
    | nil =>
      rw [qPop_eq_none.mpr hq] at h; cases h
      exact .held hp hd hq
    | cons b rest =>
      rw [qPop_cons hq] at h; cases h
      exact .payload b rest hp hd hq
  · next hd => exact .command hp (.of_exec_latched hf (.inl hd) h)
  · next hd => exact .command hp (.of_exec_latched hf (.inr hd) h)

theorem MlStep.of_supervisePhase {s t : State} (hf : s.faulted = false) (hp : s.mlp = .p4Supervise)
    (h : supervisePhase s = .next t) : MlStep s t := by
  obtain ⟨u, hu, ht⟩ := andThen_eq_next.mp h
  obtain ⟨hft, -⟩ | ⟨-, hu⟩ := whenLive_eq_next hu
  · rw [hf] at hft; cases hft
  · cases hu; cases ht
    exact .supervise hp

/-- The step of ML is a blink while faulted, and one of `MlStep` while live. -/
theorem mlStep_eq_next {s t : State} (h : mlStep s = .next t) :
    (s.faulted = true ∧ t = blink s) ∨ (s.faulted = false ∧ MlStep s t) := by
  cases hf : s.faulted with
  | true =>
    rw [mlStep_faulted hf] at h; cases h
    exact .inl ⟨rfl, rfl⟩
  | false =>
    refine .inr ⟨rfl, ?_⟩
    unfold mlStep at h
    rw [hf] at h
    cases hp : s.mlp <;> rw [hp] at h
    case p0Local => exact .of_localPhase hf hp h
    case p1Sample => cases h; exact .sample hp
    case p2Control => exact .of_controlPhase hp h
    case p3Dispatch => exact .of_dispatchPhase hf hp h
    case p4Supervise => exact .of_supervisePhase hf hp h

/-! ## RX and the reset sequence -/

/-- A receive event is ignored while faulted, or appends its byte, or finds the queue full. -/
theorem execRxEvent_eq_next {b : Byte} {s t : State} (h : execRxEvent b s = .next t) :
    (s.faulted = true ∧ t = s)
    ∨ (s.faulted = false ∧ s.q.length ≠ Config.queueCapacity ∧ t = { s with q := s.q ++ [b] })
    ∨ (s.faulted = false ∧ s.q.length = Config.queueCapacity ∧ t = fatal .queueOverflow s) := by
  obtain ⟨hf, rfl⟩ | ⟨hf, h⟩ := whenLive_eq_next h
  · exact .inl ⟨hf, rfl⟩
  · cases hq : qPush b s with
    | some u =>
      obtain ⟨hroom, rfl⟩ := qPush_eq_some hq
      rw [hq] at h; cases h
      exact .inr (.inl ⟨hf, hroom, rfl⟩)
    | none =>
      rw [hq] at h; cases h
      exact .inr (.inr ⟨hf, qPush_eq_none hq, rfl⟩)

/-- A step of the block is a step of RX, of ML, or of the reset sequence, with the choice taken. -/
theorem step_eq_next {s t : State} (h : step s = .next t) :
    (∃ b, (nextMove s).mover = .rx b ∧ execRxEvent b (withMove s) = .next t)
    ∨ ((nextMove s).mover = .ml ∧ mlStep (withMove s) = .next t)
    ∨ (((nextMove s).mover = .restart ∨ (nextMove s).mover = .powerLoss)
      ∧ execReset (withMove s) = .next t) := by
  have h : perform (nextMove s).mover (withMove s) = .next t := h
  cases hm : (nextMove s).mover <;> rw [hm] at h
  case rx b => exact .inl ⟨b, rfl, h⟩
  case ml => exact .inr (.inl ⟨rfl, h⟩)
  case restart => exact .inr (.inr ⟨.inl rfl, h⟩)
  case powerLoss => exact .inr (.inr ⟨.inr rfl, h⟩)

end Sys2Proof.Machine
end

section
/-! SUPPORT. The state after reset, and the invariant of the reachable states (10_state): it holds after
reset, and each step keeps it. -/

namespace Sys2Proof.Machine

theorem npl_le (op : Byte) : npl op ≤ 4 := by unfold npl; split_ifs <;> omega

theorem responseLength_pos (op : Byte) : 0 < responseLength op := by
  unfold responseLength; split <;> omega

theorem responseLength_le (op : Byte) : responseLength op ≤ 2 := by
  unfold responseLength; split <;> omega

/-- An opcode with a payload is defined: an undefined one has none (R86). -/
theorem definedOpcode_of_lt_npl {op : Byte} {n : Nat} (h : n < npl op) : definedOpcode op = true := by
  by_contra hu
  rw [Laws.npl_undefined (by simpa using hu)] at h
  omega

/-! ## After the reset sequence -/

/-- A live state with nothing under way and the hardwired limits meets the invariant. -/
theorem State.Inv.of_cleared {s : State} (hq : s.q = []) (hplc : s.plc = 0) (hrsi : s.rsi = 0)
    (hlim : s.pLimit = Config.limit ∧ s.iLimit = Config.limit ∧ s.dLimit = Config.limit
      ∧ s.outLimit = Config.limit)
    (hn : Memory.wf s.nvs = true) (hb : s.nvsBusy = .idle) (hd : s.ds = .waitOpcode)
    (hf : s.faulted = false) (hc : s.faultCause = .none) : s.Inv where
  queue := by simp [hq]
  payloadCount := by omega
  responseCount := by omega
  limits := hlim
  sector := hn
  persist := by simp [hb]
  transaction := by simp [hd]
  cause := by simp [hf, hc]
  payload := by simp [hd]
  frame := by simp [hd]
  response := by simp [hd]

/-- Settles O51: the reset sequence clears what the invariant speaks of. -/
theorem resetMeetsInv : Obligations.ResetMeetsInv :=
  .of_cleared rfl rfl rfl ⟨rfl, rfl, rfl, rfl⟩ wf_reset rfl rfl rfl rfl

/-- Settles O38: each value by the definition of the state after reset. -/
theorem resetStateValues : Obligations.ResetStateValues :=
  ⟨rfl, rfl, rfl, rfl, rfl, rfl, rfl, rfl, rfl, rfl, rfl, rfl, rfl, rfl, rfl, rfl, rfl, rfl, rfl, rfl,
    rfl, rfl⟩

namespace State.Inv

variable {s t : State}

/-- The sector is all that the reset sequence keeps of what the invariant speaks of (R291). -/
theorem execReset (hi : s.Inv) (h : Machine.execReset s = .next t) : t.Inv := by
  cases h
  refine .of_cleared ?_ ?_ ?_ ⟨?_, ?_, ?_, ?_⟩ ?_ ?_ ?_ ?_ ?_ <;> simp [newController, hi.sector]

/-! ## Rules for the steps -/

theorem withMove (hi : s.Inv) : (Machine.withMove s).Inv := { hi with }

theorem blink (hi : s.Inv) : (Machine.blink s).Inv := { hi with }

/-- A live state that meets the invariant meets it faulted, with a cause (R254). -/
theorem fatal {c : FaultCause} (hi : s.Inv) (hc : c ≠ .none) (hf : s.faulted = false) :
    (Machine.fatal c s).Inv :=
  { hi with cause := by simp [hf, hc] }

/-- Outside P3 no transaction is under way (R201). -/
theorem waiting (hi : s.Inv) (hp : s.mlp ≠ .p3Dispatch) : s.ds = .waitOpcode := by
  by_contra hd
  exact hp (hi.transaction hd)

/-- Outside P0 no persist is under way (R36). -/
theorem notBusy (hi : s.Inv) (hp : s.mlp ≠ .p0Local) : s.nvsBusy = .idle := by
  cases hb : s.nvsBusy with
  | idle => rfl
  | erasedPendingProgram => exact absurd (hi.persist hb).1 hp

/-- Between transactions and persists ML may go to any phase. -/
theorem setPhase (hi : s.Inv) (p : Phase) (hd : s.ds = .waitOpcode) (hb : s.nvsBusy = .idle) :
    State.Inv { s with mlp := p } :=
  { hi with persist := by simp [hb], transaction := by simp [hd] }

/-- From P1, P2 and P4 ML may go to any phase. -/
theorem nextPhase (hi : s.Inv) (p : Phase) (h0 : s.mlp ≠ .p0Local) (h3 : s.mlp ≠ .p3Dispatch) :
    State.Inv { s with mlp := p } :=
  hi.setPhase p (hi.waiting h3) (hi.notBusy h0)

/-- The end of an execute part: no response byte is sent yet (R194). -/
theorem toRespond (hi : s.Inv) (hd : s.ds = .execute) :
    State.Inv { s with rsi := 0, ds := .respond } :=
  { hi with
    responseCount := Nat.zero_le 2
    transaction := fun _ => hi.transaction (by simp [hd])
    payload := nofun
    frame := fun _ => hi.frame (.inl hd)
    response := fun _ => responseLength_pos s.op }

/-- A queue within the capacity stays within it without its oldest byte. -/
theorem dropHead {b : Byte} {rest : List Byte} (hi : s.Inv) (hq : s.q = b :: rest) :
    State.Inv { s with q := rest } :=
  { hi with queue := by have := hi.queue; simp [hq] at this ⊢; omega }

/-! ## Every step -/

theorem rxStep {b : Byte} (hi : s.Inv) (h : execRxEvent b s = .next t) : t.Inv := by
  obtain ⟨-, rfl⟩ | ⟨-, hroom, rfl⟩ | ⟨hf, -, rfl⟩ := execRxEvent_eq_next h
  · exact hi
  · exact { hi with queue := by have := hi.queue; simp; omega }
  · exact hi.fatal (by decide) hf

theorem commandStep (hi : s.Inv) (hf : s.faulted = false) (hp : s.mlp = .p3Dispatch)
    (h : CommandStep s t) : t.Inv := by
  have hb : s.nvsBusy = .idle := hi.notBusy (by simp [hp])
  cases h with
  | hvEnable _ hd => exact { hi.toRespond hd with }
  | badEnable => exact hi.fatal (by decide) hf
  | noEffect hd => exact hi.toRespond hd
  | setPwm _ _ hd => exact { hi.toRespond hd with }
  | firePulse _ hd => exact { hi.toRespond hd with }
  | undefinedLatched hd hop =>
    obtain ⟨hdef, -⟩ := hi.frame hd
    simp [hop] at hdef
  | pastEnd => exact hi
  | respondByte _ hd hr =>
    have := responseLength_le s.op
    exact { hi with responseCount := by simp; omega, response := fun _ => hr }
  | respondLast _ _ hr =>
    have := responseLength_le s.op
    exact
      { hi with
        responseCount := by simp; omega
        persist := by simp [hb]
        transaction := by simp
        payload := by simp
        frame := by simp
        response := by simp }

/-- A defined opcode begins a transaction with no payload byte read yet (R192). -/
theorem fetch {b : Byte} (hi : s.Inv) (hp : s.mlp = .p3Dispatch) (hop : definedOpcode b = true) :
    State.Inv { s with op := b, plc := 0, ds := if npl b = 0 then .execute else .readPayload } :=
  { hi with
    payloadCount := Nat.zero_le 4
    transaction := fun _ => hp
    payload := by simp; omega
    frame := by by_cases h0 : npl b = 0 <;> simp [h0, hop]
    response := by by_cases h0 : npl b = 0 <;> simp [h0] }

/-- An undefined opcode leaves no transaction begun (R192, R200). -/
theorem fetchUndefined {b : Byte} (hi : s.Inv) (hd : s.ds = .waitOpcode) :
    State.Inv { s with op := b, plc := 0 } :=
  { hi with
    payloadCount := Nat.zero_le 4
    payload := by simp [hd]
    frame := by simp [hd]
    response := by simp [hd] }

/-- A payload byte leaves one missing, or completes the frame (R193). -/
theorem payloadByte {pl : Payload} (hi : s.Inv) (hp : s.mlp = .p3Dispatch) (hd : s.ds = .readPayload) :
    State.Inv
      { s with
        pl := pl, plc := s.plc + 1
        ds := if s.plc + 1 = npl s.op then .execute else .readPayload } := by
  have hlt := hi.payload hd
  have hle := npl_le s.op
  exact
    { hi with
      payloadCount := by simp; omega
      transaction := fun _ => hp
      payload := by simp; omega
      frame := by
        by_cases hlast : s.plc + 1 = npl s.op <;> simp [hlast, definedOpcode_of_lt_npl hlt]
      response := by by_cases hlast : s.plc + 1 = npl s.op <;> simp [hlast] }

theorem mlStep (hi : s.Inv) (hf : s.faulted = false) (h : MlStep s t) : t.Inv := by
  cases h with
  | noRequest hp hb => exact hi.setPhase .p1Sample (hi.waiting (by simp [hp])) hb
  | setSetpoint _ hp hb => exact { hi.setPhase .p1Sample (hi.waiting (by simp [hp])) hb with }
  | getSetpoint hp hb => exact { hi.setPhase .p1Sample (hi.waiting (by simp [hp])) hb with }
  | persistErase hp => exact { hi with sector := rfl, persist := fun _ => ⟨hp, rfl⟩ }
  | persistProgram w hp =>
    have hd := hi.waiting (by simp [hp])
    exact
      { hi with
        sector := wf_nvsProgram w hi.sector
        persist := by simp
        transaction := by simp [hd] }
  | sample hp => exact { hi.nextPhase .p2Control (by simp [hp]) (by simp [hp]) with }
  | control hp => exact { hi.nextPhase .p3Dispatch (by simp [hp]) (by simp [hp]) with }
  | noControl hp => exact hi.nextPhase .p3Dispatch (by simp [hp]) (by simp [hp])
  | noCommand hp hd => exact hi.setPhase .p4Supervise hd (hi.notBusy (by simp [hp]))
  | fetch b rest hp hd hq hop => exact (hi.dropHead hq).fetch hp hop
  | fetchUndefined b rest hp hd hq => exact ((hi.dropHead hq).fetchUndefined hd).fatal (by decide) hf
  | held => exact hi
  | payload b rest hp hd hq => exact (hi.dropHead hq).payloadByte hp hd
  | command hp h => exact hi.commandStep hf hp h
  | supervise hp => exact { hi.nextPhase .p0Local (by simp [hp]) (by simp [hp]) with }

end State.Inv

/-- Settles O50: by what RX, ML and the reset sequence can do in a step. -/
theorem stepKeepsInv : Obligations.StepKeepsInv := by
  intro s t hi h
  obtain ⟨b, -, h⟩ | ⟨-, h⟩ | ⟨-, h⟩ := step_eq_next h
  · exact hi.withMove.rxStep h
  · obtain ⟨-, rfl⟩ | ⟨hf, h⟩ := mlStep_eq_next h
    · exact hi.withMove.blink
    · exact hi.withMove.mlStep hf h
  · exact hi.withMove.execReset h

end Sys2Proof.Machine
end

section
/-! SUPPORT. Who writes `hv_enabled` (10_state R17), and that no rule reads `fault_cause` (10_state R22). -/

namespace Sys2Proof.Machine

/-! ## `hv_enabled` -/

/-- A step of a latched command keeps `hv_enabled`, or is an executing HV_ENABLE that raises nothing. -/
theorem CommandStep.hvEnabled_cases {s t : State} (h : CommandStep s t) :
    t.hvEnabled = s.hvEnabled ∨ (t.faulted = s.faulted ∧ s.ds = .execute ∧ s.op = 0x01#8) := by
  cases h with
  | hvEnable _ hd hop => exact .inr ⟨rfl, hd, hop⟩
  | _ => exact .inl rfl

/-- A step of a live ML keeps `hv_enabled`, or is that of an executing HV_ENABLE. -/
theorem MlStep.hvEnabled_cases {s t : State} (h : MlStep s t) :
    t.hvEnabled = s.hvEnabled
    ∨ (t.faulted = s.faulted ∧ s.mlp = .p3Dispatch ∧ s.ds = .execute ∧ s.op = 0x01#8) := by
  cases h with
  | command hp h => exact h.hvEnabled_cases.imp_right fun ⟨hf, hd, hop⟩ => ⟨hf, hp, hd, hop⟩
  | _ => exact .inl rfl

theorem execRxEvent_hvEnabled {b : Byte} {s t : State} (h : execRxEvent b s = .next t) :
    t.hvEnabled = s.hvEnabled := by
  obtain ⟨-, rfl⟩ | ⟨-, -, rfl⟩ | ⟨-, -, rfl⟩ := execRxEvent_eq_next h <;> rfl

theorem execReset_faulted {s t : State} (h : execReset s = .next t) : t.faulted = false := by
  cases h
  simp [newController]

/-- Settles O56: of the steps of RX, ML and the reset sequence, those that write `hv_enabled` leave
`faulted` false. -/
theorem hvEnabledWriters : Obligations.HvEnabledWriters := by
  intro s t h hne
  obtain ⟨b, -, h⟩ | ⟨hm, h⟩ | ⟨hm, h⟩ := step_eq_next h
  · exact absurd (execRxEvent_hvEnabled h) hne
  · obtain ⟨-, rfl⟩ | ⟨hf, h⟩ := mlStep_eq_next h
    · exact absurd rfl hne
    · obtain hkeep | ⟨hft, hp, hd, hop⟩ := h.hvEnabled_cases
      · exact absurd hkeep hne
      · exact ⟨hft.trans hf, .inr (.inr ⟨hm, hf, hp, hd, hop⟩)⟩
  · exact ⟨execReset_faulted h, hm.elim .inl (.inr ∘ .inl)⟩

/-! ## `fault_cause` -/

/-- The state that differs from `s` in `fault_cause` alone. -/
def setCause (c : FaultCause) (s : State) : State := { s with faultCause := c }

@[simp] theorem setCause_q (c : FaultCause) (s : State) : (setCause c s).q = s.q := rfl
@[simp] theorem setCause_rsi (c : FaultCause) (s : State) : (setCause c s).rsi = s.rsi := rfl
@[simp] theorem setCause_ds (c : FaultCause) (s : State) : (setCause c s).ds = s.ds := rfl
@[simp] theorem setCause_mlp (c : FaultCause) (s : State) : (setCause c s).mlp = s.mlp := rfl
@[simp] theorem setCause_nvsBusy (c : FaultCause) (s : State) : (setCause c s).nvsBusy = s.nvsBusy := rfl
@[simp] theorem setCause_ports (c : FaultCause) (s : State) : (setCause c s).ports = s.ports := rfl

/-- Where `f` answers a next state, from a state that differs in `fault_cause` alone it answers one that
differs in `fault_cause` at most. -/
def IgnoresCause (f : State → Result) : Prop :=
  ∀ (s t : State) (c : FaultCause), f s = .next t → ∃ c', f (setCause c s) = .next (setCause c' t)

namespace IgnoresCause

variable {f k : State → Result}

/-- An update that answers a next state whatever the cause. -/
theorem update {u : State → State} (hu : ∀ s c, ∃ c', u (setCause c s) = setCause c' (u s)) :
    IgnoresCause fun s => .next (u s) := by
  intro s t c h
  cases h
  obtain ⟨c', hc⟩ := hu s c
  exact ⟨c', congrArg _ hc⟩

theorem refused (e : Refusal) : IgnoresCause fun _ => .refused e := by
  intro _ _ _ h; cases h

theorem andThen (hf : IgnoresCause f) (hk : IgnoresCause k) :
    IgnoresCause fun s => Machine.andThen (f s) k := by
  intro s t c h
  obtain ⟨u, hu, ht⟩ := andThen_eq_next.mp h
  obtain ⟨c', hc⟩ := hf s u c hu
  obtain ⟨c'', hc'⟩ := hk u t c' ht
  exact ⟨c'', andThen_eq_next.mpr ⟨_, hc, hc'⟩⟩

/-- A choice between two operations that does not depend on the cause. -/
theorem cond {p : State → Prop} [DecidablePred p] (hp : ∀ s c, p (setCause c s) ↔ p s)
    (hf : IgnoresCause f) (hk : IgnoresCause k) : IgnoresCause fun s => if p s then f s else k s := by
  intro s t c h
  by_cases hs : p s
  · obtain ⟨c', hc⟩ := hf s t c ((if_pos hs).symm.trans h)
    exact ⟨c', (if_pos ((hp s c).mpr hs)).trans hc⟩
  · obtain ⟨c', hc⟩ := hk s t c ((if_neg hs).symm.trans h)
    exact ⟨c', (if_neg (mt (hp s c).mp hs)).trans hc⟩

theorem whenLive (hf : IgnoresCause f) : IgnoresCause fun s => Machine.whenLive s (f s) :=
  .cond (fun _ _ => Iff.rfl) (.update fun _ c => ⟨c, rfl⟩) hf

/-- Going on with the byte popped, or without one. -/
theorem pop {g : Byte → State → Result} (hf : IgnoresCause f) (hg : ∀ b, IgnoresCause (g b)) :
    IgnoresCause fun s => match qPop s with
      | none => f s
      | some (b, u) => g b u := by
  intro s t c h
  beta_reduce at h ⊢
  cases hq : s.q with
  | nil =>
    rw [qPop_eq_none.mpr hq] at h
    rw [qPop_eq_none.mpr ((setCause_q c s).trans hq)]
    exact hf s t c h
  | cons b rest =>
    rw [qPop_cons hq] at h
    rw [qPop_cons ((setCause_q c s).trans hq)]
    exact hg b _ t c h

theorem raiseFatal (cause : FaultCause) : IgnoresCause (Machine.raiseFatal cause) :=
  .update fun _ _ => ⟨_, rfl⟩

/-! ### The commands -/

theorem respondByte (resp : List Byte) : IgnoresCause (Machine.respondByte resp) := by
  intro s t c h
  unfold Machine.respondByte at h ⊢
  rw [setCause_rsi]
  split at h
  · cases h; exact ⟨c, rfl⟩
  · split at h
    · next hl => cases h; rw [if_pos hl]; exact ⟨c, rfl⟩
    · next hl => cases h; rw [if_neg hl]; exact ⟨c, rfl⟩

theorem commandStep (hf : IgnoresCause f) (resp : List Byte) :
    IgnoresCause (Machine.commandStep f resp) := by
  refine .whenLive fun s t c h => ?_
  rw [setCause_ds]
  split at h
  · exact hf s t c h
  · exact respondByte resp s t c h
  · cases h; exact ⟨c, rfl⟩
  · cases h; exact ⟨c, rfl⟩

theorem toRespond : IgnoresCause Machine.toRespond := .update fun _ c => ⟨c, rfl⟩

theorem execUndefined (op : Byte) : IgnoresCause (Machine.execUndefined op) :=
  .whenLive (.update fun _ _ => ⟨_, rfl⟩)

theorem execHvEnable (en : Byte) : IgnoresCause (Machine.execHvEnable en) :=
  .commandStep (.cond (fun _ _ => Iff.rfl) (raiseFatal _) (.update fun _ c => ⟨c, rfl⟩)) _

theorem execSetPwm (period width : U16) : IgnoresCause (Machine.execSetPwm period width) :=
  .commandStep
    (.cond (fun _ _ => Iff.rfl) (.update fun _ c => ⟨c, rfl⟩) (.update fun _ c => ⟨c, rfl⟩)) _

theorem exec_command {i : Instr} (hi : i.isCommand = true) : IgnoresCause (exec i) := by
  cases i with
  | hvEnable en => exact execHvEnable en
  | getMeas => exact fun s => commandStep toRespond (respGetMeas s) s
  | setPwm period width => exact execSetPwm period width
  | firePulse duration => exact .commandStep (.update fun _ c => ⟨c, rfl⟩) _
  | undefined op => exact execUndefined op
  | _ => cases hi

/-! ### The phases of ML -/

theorem takeRequest {u : State → State} (hu : ∀ s c, u (setCause c s) = setCause c (u s)) :
    IgnoresCause fun s => Machine.takeRequest s u :=
  .whenLive (.cond (fun _ _ => Iff.rfl) (.update fun s c => ⟨c, by rw [hu]; rfl⟩)
    (.update fun _ c => ⟨c, rfl⟩))

theorem programSector (w : RecordWords) : IgnoresCause (Machine.programSector w) :=
  .cond (fun _ _ => Iff.rfl) (.update fun _ c => ⟨c, rfl⟩) (.refused _)

theorem writeRecordStep (r : Record) : IgnoresCause (Machine.writeRecordStep r) := by
  intro s t c h
  unfold Machine.writeRecordStep at h ⊢
  rw [setCause_nvsBusy]
  split at h
  · cases h; exact ⟨c, rfl⟩
  · exact (programSector (formatRecord r)).andThen (.update fun _ c => ⟨c, rfl⟩) s t c h

theorem execLopPersist : IgnoresCause Machine.execLopPersist := by
  refine .whenLive (.cond (fun _ _ => Iff.rfl) (fun s t c h => ?_) (.update fun _ c => ⟨c, rfl⟩))
  refine (writeRecordStep (currentRecord s)).andThen (fun s t c h => ?_) s t c h
  rw [setCause_nvsBusy]
  split at h <;> cases h <;> exact ⟨c, rfl⟩

theorem localPhase : IgnoresCause Machine.localPhase := by
  intro s t c h
  unfold Machine.localPhase at h ⊢
  rw [setCause_nvsBusy, setCause_ports]
  split at h
  · exact execLopPersist s t c h
  · split at h
    · cases h; exact ⟨c, rfl⟩
    · next v _ => exact takeRequest (u := storeSetpoint v) (fun _ _ => rfl) s t c h
    · exact takeRequest (u := fun s => emit (.lopResult s.setpoint) s) (fun _ _ => rfl) s t c h
    · exact execLopPersist s t c h

theorem controlPhase : IgnoresCause Machine.controlPhase :=
  .cond (fun _ _ => Iff.rfl) (.update fun _ c => ⟨c, rfl⟩) (.update fun _ c => ⟨c, rfl⟩)

theorem fetchOpcode (b : Byte) : IgnoresCause (Machine.fetchOpcode b) :=
  .cond (fun _ _ => Iff.rfl) (.update fun _ c => ⟨c, rfl⟩) (execUndefined b)

theorem dispatchPhase : IgnoresCause Machine.dispatchPhase := by
  intro s t c h
  unfold Machine.dispatchPhase at h ⊢
  rw [setCause_ds]
  split at h
  · exact pop (f := fun s => .next { s with mlp := .p4Supervise }) (.update fun _ c => ⟨c, rfl⟩)
      fetchOpcode s t c h
  · exact pop (f := .next) (g := Machine.payloadByte) (.update fun _ c => ⟨c, rfl⟩)
      (fun _ => .update fun _ c => ⟨c, rfl⟩) s t c h
  · exact exec_command (latchedInstr_isCommand s) s t c h
  · exact exec_command (latchedInstr_isCommand s) s t c h

theorem supervisePhase : IgnoresCause Machine.supervisePhase :=
  .andThen (.whenLive (.update fun _ c => ⟨c, rfl⟩)) (.update fun _ c => ⟨c, rfl⟩)

theorem mlStep : IgnoresCause Machine.mlStep := by
  refine .cond (fun _ _ => Iff.rfl) (.update fun _ c => ⟨c, rfl⟩) fun s t c h => ?_
  rw [setCause_mlp]
  split at h
  · exact localPhase s t c h
  · cases h; exact ⟨c, rfl⟩
  · exact controlPhase s t c h
  · exact dispatchPhase s t c h
  · exact supervisePhase s t c h

/-! ### Every step -/

theorem execRxEvent (b : Byte) : IgnoresCause (Machine.execRxEvent b) := by
  refine .whenLive fun s t c h => ?_
  have hfull : queueFull (setCause c s) = queueFull s := rfl
  unfold qPush at h ⊢
  rw [hfull]
  cases hq : queueFull s <;> rw [hq] at h <;> cases h <;> exact ⟨_, rfl⟩

/-- The reset sequence writes `fault_cause` (R291). -/
theorem execReset : IgnoresCause Machine.execReset := fun _ t _ h => ⟨t.faultCause, h⟩

theorem perform (m : Mover) : IgnoresCause (Machine.perform m) := by
  cases m with
  | rx b => exact execRxEvent b
  | ml => exact mlStep
  | restart => exact execReset
  | powerLoss => exact execReset

end IgnoresCause

/-- Settles O59: taking the next choice of the environment does not depend on the cause, and no mover's step
does. -/
theorem faultCauseUnread : Obligations.FaultCauseUnread := fun s t c h =>
  IgnoresCause.perform (nextMove s).mover (withMove s) t c h

end Sys2Proof.Machine
end

section
/-! SUPPORT. The ring buffer under the queue (10_state R12, 20_memory R67, 40_transport R117): what each part
of a push does to the bytes the ring stands for, and the cursors kept modulo twice the capacity. -/

namespace Sys2Proof.Machine

namespace RingBuffer

variable {r : RingBuffer}

theorem wf_iff :
    r.wf = true ↔
      r.buf.length = Config.queueCapacity ∧ r.rd ≤ r.wr ∧ r.wr ≤ r.rd + Config.queueCapacity := by
  simp [wf, and_assoc]

theorem full_eq_false_iff : r.full = false ↔ r.count ≠ Config.queueCapacity := by simp [full]

/-! ## Cells -/

theorem cell_lt (c : Nat) : cell c < Config.queueCapacity := Nat.mod_lt _ (by decide)

/-- Two cursors less than the capacity apart have different cells. -/
theorem cell_ne_of_lt {c d : Nat} (hlt : c < d) (hnear : d < c + Config.queueCapacity) : cell d ≠ cell c := by
  unfold cell
  unfold Config.queueCapacity at *
  omega

/-! ## The two parts of a push (R67) -/

theorem getD_writeCell_self (b : Byte) (hlen : r.buf.length = Config.queueCapacity) :
    (r.writeCell b).buf.getD (cell r.wr) 0#8 = b := by
  simp [writeCell, List.getD_eq_getElem?_getD, hlen, cell_lt]

theorem getD_writeCell_of_ne (b : Byte) {i : Nat} (hne : cell r.wr ≠ i) :
    (r.writeCell b).buf.getD i 0#8 = r.buf.getD i 0#8 := by
  simp [writeCell, List.getD_eq_getElem?_getD, List.getElem?_set_ne hne]

/-- Every stored byte stands in another cell than the one a push writes, while the ring is not full. -/
theorem contents_writeCell (b : Byte) (hwf : r.wf = true) (hroom : r.full = false) :
    (r.writeCell b).contents = r.contents := by
  obtain ⟨-, -, hbound⟩ := wf_iff.mp hwf
  have hcount := full_eq_false_iff.mp hroom
  refine List.map_congr_left fun k hk => getD_writeCell_of_ne b ?_
  have hk : k < r.wr - r.rd := List.mem_range.mp hk
  unfold count at hcount
  exact cell_ne_of_lt (c := r.rd + k) (by omega) (by omega)

/-- Publishing the write cursor makes the byte in its cell the youngest one stored. -/
theorem contents_publishWrite (hle : r.rd ≤ r.wr) :
    r.publishWrite.contents = r.contents ++ [r.buf.getD (cell r.wr) 0#8] := by
  have hcount : r.publishWrite.count = r.count + 1 := Nat.succ_sub hle
  have hyoungest : r.rd + r.count = r.wr := Nat.add_sub_cancel' hle
  rw [contents, hcount, List.range_succ]
  simp [contents, publishWrite, hyoungest]

theorem contents_push (b : Byte) (hwf : r.wf = true) (hroom : r.full = false) :
    (r.writeCell b).publishWrite.contents = r.contents ++ [b] := by
  obtain ⟨hlen, hle, -⟩ := wf_iff.mp hwf
  calc (r.writeCell b).publishWrite.contents
      = (r.writeCell b).contents ++ [(r.writeCell b).buf.getD (cell r.wr) 0#8] :=
        contents_publishWrite (r := r.writeCell b) hle
    _ = r.contents ++ [b] := by rw [contents_writeCell b hwf hroom, getD_writeCell_self b hlen]

/-! ## Modular cursors (R12, R117) -/

/-- The count is at most the capacity, so it is determined modulo twice the capacity. -/
theorem cursorDistance_mod (hwf : r.wf = true) :
    cursorDistance (r.wr % cursorModulus) (r.rd % cursorModulus) = r.count := by
  obtain ⟨-, hle, hbound⟩ := wf_iff.mp hwf
  unfold cursorDistance cursorModulus count
  unfold Config.queueCapacity at *
  omega

/-- The capacity divides the modulus of the cursors. -/
theorem cell_mod (c : Nat) : cell (c % cursorModulus) = cell c :=
  Nat.mod_mod_of_dvd c (Nat.dvd_mul_left Config.queueCapacity 2)

end RingBuffer

/-- Settles O16: by the two parts of a push and the laws of the modular cursors. -/
theorem ringCursorOrder : Obligations.RingCursorOrder := fun _ b hwf =>
  ⟨fun hroom => ⟨RingBuffer.contents_writeCell b hwf hroom, RingBuffer.contents_push b hwf hroom⟩,
    RingBuffer.cursorDistance_mod hwf, RingBuffer.cell_mod⟩

end Sys2Proof.Machine
end

section
/-! SUPPORT. The receive event (40_transport R114, R118), and RX's step. -/

namespace Sys2Proof.Machine

theorem qPush_of_room (b : Byte) {s : State} (h : s.q.length ≠ Config.queueCapacity) :
    qPush b s = some { s with q := s.q ++ [b] } := by simp [qPush, queueFull, h]

theorem qPush_of_full (b : Byte) {s : State} (h : s.q.length = Config.queueCapacity) :
    qPush b s = none := by simp [qPush, queueFull, h]

/-- The first fatal condition sets both latches (60_exceptions R254). -/
theorem fatal_of_live (c : FaultCause) {s : State} (hf : s.faulted = false) :
    fatal c s = { s with faulted := true, faultCause := c } := by simp [fatal, hf]

theorem execRxEvent_of_faulted (b : Byte) {s : State} (hf : s.faulted = true) :
    execRxEvent b s = .next s := whenLive_of_faulted _ hf

theorem execRxEvent_of_room (b : Byte) {s : State} (hf : s.faulted = false)
    (hroom : s.q.length ≠ Config.queueCapacity) :
    execRxEvent b s = .next { s with q := s.q ++ [b] } := by
  rw [execRxEvent, whenLive_of_live _ hf, qPush_of_room b hroom]

theorem execRxEvent_of_full (b : Byte) {s : State} (hf : s.faulted = false)
    (hfull : s.q.length = Config.queueCapacity) :
    execRxEvent b s = .next { s with faulted := true, faultCause := .queueOverflow } := by
  rw [execRxEvent, whenLive_of_live _ hf, qPush_of_full b hfull, ← fatal_of_live _ hf, raiseFatal]

/-- RX's step is the receive event where the script and the ports are those of the choice taken. -/
theorem step_rx {s : State} {b : Byte} {p : Ports} {later : List Move} (h : s.env = ⟨.rx b, p⟩ :: later) :
    step s = exec (.rxEvent b) { s with env := later, ports := p } := blockStep_scripted h

/-- Settles O45: by the three things a receive event can do. -/
theorem rxStepTouchesQueueOnly : Obligations.RxStepTouchesQueueOnly := by
  intro s b p later henv
  rw [step_rx henv]
  exact ⟨rfl, fun hf => execRxEvent_of_faulted b hf, fun hf hroom => execRxEvent_of_room b hf hroom,
    fun hf hfull => execRxEvent_of_full b hf hfull⟩

end Sys2Proof.Machine
end

section
/-! SUPPORT. Who writes the sector (20_memory R53, 41_nonvolatile R131, R132): every instruction leaves it as it
was, erases it, or programs the record into it. -/

namespace Sys2Proof.Machine

/-- The erase, the program, and the operations made of them. -/
def writesSector : Instr → Bool
  | .nvsErase | .nvsProgram _ | .nvsWriteRecord _ | .pidPersist | .lopPersist => true
  | _ => false

/-- The sector of `t` is that of `s` erased, or with a record programmed into it. -/
def SectorWritten (s t : State) : Prop := t.nvs = [] ∨ ∃ w, t.nvs = nvsProgram s.nvs w

/-! ## Operations that leave the sector -/

theorem whenLive_nvs {k : Result} {s t : State} (hk : k = .next t → t.nvs = s.nvs)
    (h : whenLive s k = .next t) : t.nvs = s.nvs := by
  obtain ⟨-, rfl⟩ | ⟨-, h⟩ := whenLive_eq_next h
  · rfl
  · exact hk h

theorem whenLive_update_nvs {s t u : State} (h : whenLive s (.next u) = .next t) (hu : u.nvs = s.nvs) :
    t.nvs = s.nvs :=
  whenLive_nvs (fun hk => by cases hk; exact hu) h

theorem respondByte_nvs {resp : List Byte} {s t : State} (h : respondByte resp s = .next t) :
    t.nvs = s.nvs := by
  obtain ⟨-, rfl⟩ | ⟨b, -, ⟨-, rfl⟩ | ⟨-, rfl⟩⟩ := respondByte_eq_next h <;> rfl

theorem commandStep_nvs {ex : State → Result} {resp : List Byte} {s t : State}
    (hex : ex s = .next t → t.nvs = s.nvs) (h : commandStep ex resp s = .next t) : t.nvs = s.nvs := by
  obtain rfl | ⟨-, -, he⟩ | ⟨-, -, hr⟩ := commandStep_eq_next h
  · rfl
  · exact hex he
  · exact respondByte_nvs hr

theorem exec_command_nvs {i : Instr} {s t : State} (hi : i.isCommand = true) (h : exec i s = .next t) :
    t.nvs = s.nvs := by
  cases i with
  | hvEnable en =>
    replace h : execHvEnable en s = .next t := h
    refine commandStep_nvs (fun he => ?_) h
    split at he <;> cases he <;> rfl
  | getMeas => exact commandStep_nvs (fun he => by cases he; rfl) h
  | setPwm period width =>
    replace h : execSetPwm period width s = .next t := h
    refine commandStep_nvs (fun he => ?_) h
    split at he <;> cases he <;> rfl
  | firePulse duration =>
    replace h : execFirePulse duration s = .next t := h
    exact commandStep_nvs (fun he => by cases he; rfl) h
  | undefined op => exact whenLive_update_nvs h rfl
  | _ => cases hi

theorem execQTryPush_nvs {b : Byte} {s t : State} (h : execQTryPush b s = .next t) : t.nvs = s.nvs := by
  refine whenLive_nvs (fun hk => ?_) h
  split at hk <;> cases hk
  · next u hq =>
    obtain ⟨-, rfl⟩ := qPush_eq_some hq
    rfl
  · rfl

theorem execQPopBlocking_nvs {s t : State} (h : execQPopBlocking s = .next t) : t.nvs = s.nvs := by
  refine whenLive_nvs (fun hk => ?_) h
  split at hk <;> cases hk
  · next b u hq =>
    obtain ⟨rest, -, rfl⟩ := qPop_eq_some hq
    rfl
  · rfl

theorem execRxEvent_nvs {b : Byte} {s t : State} (h : execRxEvent b s = .next t) : t.nvs = s.nvs := by
  obtain ⟨-, rfl⟩ | ⟨-, -, rfl⟩ | ⟨-, -, rfl⟩ := execRxEvent_eq_next h <;> rfl

theorem takeRequest_nvs {k : State → State} {s t : State} (h : takeRequest s k = .next t)
    (hk : (k s).nvs = s.nvs) : t.nvs = s.nvs := by
  obtain rfl | ⟨-, -, -, rfl⟩ := takeRequest_eq_next h
  · rfl
  · exact hk

/-- The sector survives the reset sequence (70_reset R291). -/
theorem execReset_nvs {s t : State} (h : execReset s = .next t) : t.nvs = s.nvs := by
  cases h
  simp [newController]

/-! ## Operations that write the sector -/

theorem whenLive_nvs_cases {k : Result} {s t : State} (hk : k = .next t → SectorWritten s t)
    (h : whenLive s k = .next t) : t.nvs = s.nvs ∨ SectorWritten s t := by
  obtain ⟨-, rfl⟩ | ⟨-, h⟩ := whenLive_eq_next h
  · exact .inl rfl
  · exact .inr (hk h)

theorem execNvsErase_nvs_cases {s t : State} (h : execNvsErase s = .next t) :
    t.nvs = s.nvs ∨ SectorWritten s t :=
  whenLive_nvs_cases (fun hk => by cases hk; exact .inl rfl) h

theorem execNvsProgram_nvs_cases {w : RecordWords} {s t : State} (h : execNvsProgram w s = .next t) :
    t.nvs = s.nvs ∨ SectorWritten s t := by
  refine whenLive_nvs_cases (fun hk => ?_) h
  obtain ⟨-, rfl⟩ := programSector_eq_next hk
  exact .inr ⟨w, rfl⟩

theorem writeRecordStep_sectorWritten {r : Record} {s t : State} (h : writeRecordStep r s = .next t) :
    SectorWritten s t := by
  obtain ⟨-, rfl⟩ | ⟨-, -, rfl⟩ := writeRecordStep_eq_next h
  · exact .inl rfl
  · exact .inr ⟨formatRecord r, rfl⟩

/-- A persist request does nothing, or is a step of its record write, after which only the phase may
change (44_supervisor R240). -/
theorem execLopPersist_nvs_cases {s t : State} (h : execLopPersist s = .next t) :
    t.nvs = s.nvs ∨ SectorWritten s t := by
  obtain ⟨-, rfl⟩ | ⟨-, h⟩ := whenLive_eq_next h
  · exact .inl rfl
  · split at h
    · obtain ⟨u, hu, ht⟩ := andThen_eq_next.mp h
      have hw := writeRecordStep_sectorWritten hu
      split at ht <;> cases ht <;> exact .inr hw
    · cases h; exact .inl rfl

/-! ## Every instruction -/

/-- An instruction leaves the sector, or is one of the writers and erases or programs it. -/
theorem exec_nvs_cases {i : Instr} {s t : State} (h : exec i s = .next t) :
    t.nvs = s.nvs ∨ (writesSector i = true ∧ SectorWritten s t) := by
  cases i with
  | hvEnable en => exact .inl (exec_command_nvs rfl h)
  | getMeas => exact .inl (exec_command_nvs rfl h)
  | setPwm period width => exact .inl (exec_command_nvs rfl h)
  | firePulse duration => exact .inl (exec_command_nvs rfl h)
  | undefined op => exact .inl (exec_command_nvs rfl h)
  | qTryPush b => exact .inl (execQTryPush_nvs h)
  | qPopBlocking => exact .inl (execQPopBlocking_nvs h)
  | qHasData => exact .inl (whenLive_update_nvs h rfl)
  | rxEvent b => exact .inl (execRxEvent_nvs h)
  | nvsErase => exact (execNvsErase_nvs_cases h).imp_right fun hw => ⟨rfl, hw⟩
  | nvsProgram w => exact (execNvsProgram_nvs_cases h).imp_right fun hw => ⟨rfl, hw⟩
  | nvsReadRecord => exact .inl (whenLive_update_nvs h rfl)
  | nvsWriteRecord r =>
    exact (whenLive_nvs_cases writeRecordStep_sectorWritten h).imp_right fun hw => ⟨rfl, hw⟩
  | pidNew => exact .inl (whenLive_update_nvs h (by simp [newController]))
  | pidRestore => exact .inl (whenLive_update_nvs h (restoreController_nvs s))
  | pidPersist =>
    exact (whenLive_nvs_cases writeRecordStep_sectorWritten h).imp_right fun hw => ⟨rfl, hw⟩
  | pidNeedsControl now => exact .inl (whenLive_update_nvs h rfl)
  | pidSetSetpoint v => exact .inl (whenLive_update_nvs h rfl)
  | pidGetSetpoint => exact .inl (whenLive_update_nvs h rfl)
  | pidStep m now => exact .inl (whenLive_update_nvs h rfl)
  | supEval => exact .inl (whenLive_update_nvs h rfl)
  | lopSetSetpoint v => exact .inl (takeRequest_nvs h rfl)
  | lopGetSetpoint => exact .inl (takeRequest_nvs h rfl)
  | lopPersist => exact (execLopPersist_nvs_cases h).imp_right fun hw => ⟨rfl, hw⟩
  | reset => exact .inl (execReset_nvs h)

theorem SectorWritten.wf {s t : State} (h : SectorWritten s t) (hwf : Memory.wf s.nvs = true) :
    Memory.wf t.nvs = true := by
  obtain hn | ⟨w, hn⟩ := h <;> rw [hn]
  · rfl
  · exact wf_nvsProgram w hwf

/-- Settles O23: the sector left, the erased sector and a program pass are all in canonical form. -/
theorem sectorFormKept : Obligations.SectorFormKept := by
  intro i s t hwf h
  obtain hn | ⟨-, hw⟩ := exec_nvs_cases h
  · rwa [hn]
  · exact hw.wf hwf

/-- Settles O24: an instruction that writes the sector is one of the five excluded. -/
theorem sectorFrame : Obligations.SectorFrame := by
  intro i s t h herase hprogram hrecord hpid hlop a
  obtain hn | ⟨hi, -⟩ := exec_nvs_cases h
  · rw [hn]
  · cases i with
    | nvsErase => exact absurd rfl herase
    | nvsProgram w => exact absurd rfl (hprogram w)
    | nvsWriteRecord r => exact absurd rfl (hrecord r)
    | pidPersist => exact absurd rfl hpid
    | lopPersist => exact absurd rfl hlop
    | _ => cases hi

end Sys2Proof.Machine
end

section
/-! SUPPORT. The encoding of the commands (30_encoding): what each frame decodes to, and the frame that stands
behind each decoded command. -/

namespace Sys2Proof

/-! ## Two bytes of a 16-bit value (R88) -/

theorem be16_eq_append (h l : Byte) : be16 h l = h ++ l :=
  (BitVec.setWidth_append_eq_shiftLeft_setWidth_or (w'' := 16)).symm.trans (BitVec.setWidth_eq _)

theorem hi8_eq_extractLsb' (v : U16) : hi8 v = v.extractLsb' 8 8 :=
  BitVec.setWidth_ushiftRight_eq_extractLsb

theorem lo8_eq_extractLsb' (v : U16) : lo8 v = v.extractLsb' 0 8 :=
  BitVec.setWidth_eq_extractLsb' (by decide)

@[simp] theorem hi8_be16 (h l : Byte) : hi8 (be16 h l) = h := by
  rw [be16_eq_append, hi8_eq_extractLsb', BitVec.extractLsb'_append_eq_left]

@[simp] theorem lo8_be16 (h l : Byte) : lo8 (be16 h l) = l := by
  rw [be16_eq_append, lo8_eq_extractLsb', BitVec.extractLsb'_append_eq_right]

/-- The two bytes of a 16-bit value lose none of its bits. -/
@[simp] theorem be16_hi8_lo8 (v : U16) : be16 (hi8 v) (lo8 v) = v := by
  rw [be16_eq_append, hi8_eq_extractLsb', lo8_eq_extractLsb']
  exact BitVec.extractLsb'_append_extractLsb'

/-! ## From bytes to commands -/

theorem definedOpcode_eq_false_iff {op : Byte} :
    definedOpcode op = false ↔ op ≠ 0x01#8 ∧ op ≠ 0x02#8 ∧ op ≠ 0x03#8 ∧ op ≠ 0x04#8 := by
  simp [definedOpcode, and_assoc]

theorem decodeFrame_undefined {op : Byte} (h : definedOpcode op = false) (b1 b2 b3 b4 : Byte) :
    decodeFrame op b1 b2 b3 b4 = .undefined op := by
  obtain ⟨h1, h2, h3, h4⟩ := definedOpcode_eq_false_iff.mp h
  rw [decodeFrame, if_neg h1, if_neg h2, if_neg h3, if_neg h4]

theorem decode_of_complete {op : Byte} {after : List Byte} (h : npl op ≤ after.length) :
    decode (op :: after) = .ok (decodeFrame op (after.getD 0 0#8) (after.getD 1 0#8) (after.getD 2 0#8)
      (after.getD 3 0#8), after.drop (npl op)) :=
  if_neg (Nat.not_lt.mpr h)

theorem decode_of_truncated {op : Byte} {after : List Byte} (h : after.length < npl op) :
    decode (op :: after) = .error (.truncated op after.length) :=
  if_pos h

theorem decode_hvEnable (en : Byte) (rest : List Byte) :
    decode (0x01#8 :: en :: rest) = .ok (.hvEnable en, rest) :=
  decode_of_complete (Nat.le_add_left 1 _)

theorem decode_getMeas (rest : List Byte) : decode (0x02#8 :: rest) = .ok (.getMeas, rest) :=
  decode_of_complete (Nat.zero_le _)

theorem decode_setPwm (b1 b2 b3 b4 : Byte) (rest : List Byte) :
    decode (0x03#8 :: b1 :: b2 :: b3 :: b4 :: rest) = .ok (.setPwm (be16 b1 b2) (be16 b3 b4), rest) :=
  decode_of_complete (Nat.le_add_left 4 _)

theorem decode_firePulse (b1 b2 : Byte) (rest : List Byte) :
    decode (0x04#8 :: b1 :: b2 :: rest) = .ok (.firePulse (be16 b1 b2), rest) :=
  decode_of_complete (Nat.le_add_left 2 _)

theorem decode_undefined {op : Byte} (h : definedOpcode op = false) (rest : List Byte) :
    decode (op :: rest) = .ok (.undefined op, rest) := by
  have hn : npl op = 0 := Laws.npl_undefined h
  rw [decode_of_complete (by omega), decodeFrame_undefined h, hn, List.drop_zero]

/-- Settles O1: one equation of `decode` for each of the five forms of a frame. -/
theorem decodeInvertsEncode : Obligations.DecodeInvertsEncode := by
  intro i frame rest hwf he
  cases i with
  | hvEnable en => cases he; exact decode_hvEnable en rest
  | getMeas => cases he; exact decode_getMeas rest
  | setPwm period width =>
    cases he
    simpa using decode_setPwm (hi8 period) (lo8 period) (hi8 width) (lo8 width) rest
  | firePulse duration =>
    cases he
    simpa using decode_firePulse (hi8 duration) (lo8 duration) rest
  | undefined op =>
    cases he
    exact decode_undefined (by simpa [Instr.wellFormed] using hwf) rest
  | _ => cases he

/-! ## From commands back to bytes -/

/-- What a decoded byte string is: an opcode, its whole payload, and the bytes left. -/
theorem decode_eq_ok {bytes rest : List Byte} {i : Instr} (h : decode bytes = .ok (i, rest)) :
    ∃ op after, bytes = op :: after ∧ npl op ≤ after.length ∧ rest = after.drop (npl op)
      ∧ i = decodeFrame op (after.getD 0 0#8) (after.getD 1 0#8) (after.getD 2 0#8) (after.getD 3 0#8) := by
  cases bytes with
  | nil => cases h
  | cons op after =>
    obtain hlt | hle := Nat.lt_or_ge after.length (npl op)
    · rw [decode_of_truncated hlt] at h; cases h
    · rw [decode_of_complete hle] at h; cases h
      exact ⟨op, after, rfl, hle, rfl, rfl⟩

theorem wellFormed_decodeFrame (op b1 b2 b3 b4 : Byte) : (decodeFrame op b1 b2 b3 b4).wellFormed = true := by
  unfold decodeFrame
  split_ifs with h1 h2 h3 h4
  · rfl
  · rfl
  · rfl
  · rfl
  · simp [Instr.wellFormed, definedOpcode_eq_false_iff.mpr ⟨h1, h2, h3, h4⟩]

/-- The frame of a decoded command is the opcode and the `npl op` latches that were looked at. -/
theorem encode_decodeFrame (op b1 b2 b3 b4 : Byte) :
    encode (decodeFrame op b1 b2 b3 b4) = some (op :: [b1, b2, b3, b4].take (npl op)) := by
  unfold decodeFrame
  split_ifs with h1 h2 h3 h4
  · rw [h1]; rfl
  · rw [h2]; rfl
  · simp [encode, h3, npl]
  · simp [encode, h4, npl]
  · rw [Laws.npl_undefined (definedOpcode_eq_false_iff.mpr ⟨h1, h2, h3, h4⟩)]; rfl

/-- Bytes enough for `n` latches fill the first `n` of the four with the first `n` bytes. -/
theorem take_latches {n : Nat} {after : List Byte} (hn : n ≤ 4) (h : n ≤ after.length) :
    [after.getD 0 0#8, after.getD 1 0#8, after.getD 2 0#8, after.getD 3 0#8].take n = after.take n := by
  refine List.ext_getElem (by simp [hn, h]) fun k hk _ => ?_
  have hkn : k < n := hk.trans_le (List.length_take_le ..)
  have hka : k < after.length := by omega
  have hk4 : k < 4 := by omega
  interval_cases k <;> simp [hka]

/-- Settles O2: the bytes taken are the opcode and the payload that `encode` writes back. -/
theorem encodeInvertsDecode : Obligations.EncodeInvertsDecode := by
  intro i bytes rest h
  obtain ⟨op, after, rfl, hle, rfl, rfl⟩ := decode_eq_ok h
  refine ⟨wellFormed_decodeFrame .., op :: after.take (npl op), ?_, ?_⟩
  · rw [encode_decodeFrame, take_latches (Machine.npl_le op) hle]
  · rw [List.cons_append, List.take_append_drop]

/-! ## Lengths (R87) and written-out frames -/

theorem frameLength_undefined {op : Byte} (h : definedOpcode op = false) : frameLength op = 1 := by
  rw [frameLength, Laws.npl_undefined h]

theorem definedOpcode_of_toNat {op : Byte} (h : op.toNat = 0 ∨ 5 ≤ op.toNat) :
    definedOpcode op = false := by
  rw [definedOpcode_eq_false_iff]
  bv_omega

/-- Settles O3: by the two answers of `decode` on an opcode and the bytes after it. -/
theorem frameLengthFromOpcode : Obligations.FrameLengthFromOpcode :=
  ⟨fun _ _ h => ⟨_, decode_of_complete h⟩, fun _ _ h => decode_of_truncated h, fun _ => rfl,
    rfl, rfl, rfl, rfl,
    fun _ h => frameLength_undefined (definedOpcode_of_toNat h)⟩

/-- Settles O4: each frame is an instance of its form's equation. -/
theorem framesOfTheSpecDecode : Obligations.FramesOfTheSpecDecode :=
  ⟨decode_hvEnable 1 [], decode_getMeas [0x07], decode_setPwm 0x00 0x64 0x00 0x05 [],
    decode_setPwm 0x01 0x00 0x01 0x01 [], decode_firePulse 0x01 0xF4 [], decode_undefined rfl [0x01, 0x02]⟩

end Sys2Proof
end

section
/-! SUPPORT. The ring buffer does on the queue it stands for what the queue operations do (10_state R12,
40_transport R117). -/

namespace Sys2Proof.Machine

namespace RingBuffer

variable {r r' : RingBuffer} {b : Byte}

/-! ## The stored bytes -/

theorem hasData_iff : r.hasData = true ↔ 0 < r.count := by simp [hasData]

@[simp] theorem length_contents (r : RingBuffer) : r.contents.length = r.count := by simp [contents]

/-- The oldest stored byte is the one a pop reads; publishing the read cursor takes it out. -/
theorem contents_of_hasData (hdata : r.hasData = true) :
    r.contents = r.readCell :: r.publishRead.contents := by
  have hbehind : 0 < r.wr - r.rd := hasData_iff.mp hdata
  have hcount : r.count = r.publishRead.count + 1 := by simp only [count, publishRead]; omega
  have hnext (k : Nat) : r.rd + (k + 1) = r.publishRead.rd + k := by simp only [publishRead]; omega
  rw [contents, hcount, List.range_succ_eq_map]
  simp only [List.map_cons, List.map_map, Function.comp_def, Nat.succ_eq_add_one, hnext]
  rfl

theorem contents_of_noData (hdata : r.hasData = false) : r.contents = [] := by
  have hcount : r.count = 0 := by simpa [hasData] using hdata
  exact List.eq_nil_of_length_eq_zero ((length_contents r).trans hcount)

/-! ## Push and pop -/

theorem push_of_full (b : Byte) (hfull : r.full = true) : r.push b = none := by simp [push, hfull]

theorem push_of_room (b : Byte) (hroom : r.full = false) : r.push b = some (r.writeCell b).publishWrite := by
  simp [push, hroom]

theorem pop_of_hasData (hdata : r.hasData = true) : r.pop = some (r.readCell, r.publishRead) := by
  simp [pop, hdata]

theorem pop_of_noData (hdata : r.hasData = false) : r.pop = none := by simp [pop, hdata]

/-! ## Well-formedness -/

theorem wf_reset {buf : List Byte} (hlen : buf.length = Config.queueCapacity) : (reset buf).wf = true :=
  wf_iff.mpr ⟨hlen, Nat.le_refl 0, Nat.zero_le _⟩

/-- A push keeps the array's length, and finds the write cursor less than the capacity ahead. -/
theorem wf_push (hwf : r.wf = true) (h : r.push b = some r') : r'.wf = true := by
  obtain ⟨hlen, hle, hbound⟩ := wf_iff.mp hwf
  cases hfull : r.full with
  | true => rw [push_of_full b hfull] at h; cases h
  | false =>
    rw [push_of_room b hfull] at h; cases h
    have hnear : r.wr - r.rd ≠ Config.queueCapacity := full_eq_false_iff.mp hfull
    have hbound' : r.wr + 1 ≤ r.rd + Config.queueCapacity := by omega
    exact wf_iff.mpr ⟨List.length_set.trans hlen, Nat.le_succ_of_le hle, hbound'⟩

/-- A pop finds the read cursor behind the write cursor. -/
theorem wf_pop (hwf : r.wf = true) (h : r.pop = some (b, r')) : r'.wf = true := by
  obtain ⟨hlen, hle, hbound⟩ := wf_iff.mp hwf
  cases hdata : r.hasData with
  | true =>
    rw [pop_of_hasData hdata] at h; cases h
    have hbehind : 0 < r.wr - r.rd := hasData_iff.mp hdata
    have hbound' : r.wr ≤ r.rd + 1 + Config.queueCapacity := by omega
    exact wf_iff.mpr ⟨hlen, Nat.lt_of_sub_pos hbehind, hbound'⟩
  | false => rw [pop_of_noData hdata] at h; cases h

/-! ## The refinement -/

variable {s : State}

/-- The ring is full exactly when the queue it stands for is. -/
theorem push_refines (b : Byte) (hwf : r.wf = true) (hq : s.q = r.contents) :
    (qPush b s).map (fun t => t.q) = (r.push b).map contents := by
  cases hfull : r.full with
  | true =>
    have hlen : s.q.length = Config.queueCapacity := by simpa [hq, full] using hfull
    rw [qPush_of_full b hlen, push_of_full b hfull]; rfl
  | false =>
    have hlen : s.q.length ≠ Config.queueCapacity := by simpa [hq, full] using hfull
    rw [qPush_of_room b hlen, push_of_room b hfull, Option.map_some, Option.map_some,
      contents_push b hwf hfull, hq]

/-- Both pops take the byte in the cell of the read cursor, or are held. -/
theorem pop_refines (hq : s.q = r.contents) :
    (qPop s).map (fun p => (p.1, p.2.q)) = r.pop.map (fun p => (p.1, p.2.contents)) := by
  cases hdata : r.hasData with
  | true => rw [qPop_cons (hq.trans (contents_of_hasData hdata)), pop_of_hasData hdata]; rfl
  | false => rw [qPop_eq_none.mpr (hq.trans (contents_of_noData hdata)), pop_of_noData hdata]; rfl

theorem hasData_refines (hq : s.q = r.contents) : Machine.hasData s = r.hasData := by
  cases hdata : r.hasData with
  | true => rw [Machine.hasData, hq, contents_of_hasData hdata]; rfl
  | false => rw [Machine.hasData, hq, contents_of_noData hdata]; rfl

end RingBuffer

/-- Settles O15: the ring starts empty, and each of its operations refines the queue's and keeps it
well-formed. -/
theorem ringRefinesQueue : Obligations.RingRefinesQueue :=
  ⟨fun _ hlen => ⟨rfl, rfl, rfl, RingBuffer.wf_reset hlen, rfl⟩,
    fun _ _ hwf hq =>
      ⟨fun b => RingBuffer.push_refines b hwf hq, RingBuffer.pop_refines hq, RingBuffer.hasData_refines hq,
        fun _ _ h => RingBuffer.wf_push hwf h, fun _ _ h => RingBuffer.wf_pop hwf h⟩⟩

end Sys2Proof.Machine
end

section
/-! SUPPORT. The queue (40_transport_queue): the result of each of its operations (R111 to R114), the FIFO law
(R115) and the capacity law (R116). -/

namespace Sys2Proof.Machine

/-! ## The operations of a live block (R111 to R114) -/

section Operations

variable {s : State}

theorem exec_qTryPush_of_room (b : Byte) (hf : s.faulted = false)
    (hroom : s.q.length ≠ Config.queueCapacity) :
    exec (.qTryPush b) s = .next { s with q := s.q ++ [b], ret := .ok } := by
  simp [exec, execQTryPush, whenLive_of_live _ hf, qPush_of_room b hroom]

theorem exec_qTryPush_of_full (b : Byte) (hf : s.faulted = false)
    (hfull : s.q.length = Config.queueCapacity) :
    exec (.qTryPush b) s = .next { s with ret := .full } := by
  simp [exec, execQTryPush, whenLive_of_live _ hf, qPush_of_full b hfull]

theorem exec_qPopBlocking_of_cons {b : Byte} {rest : List Byte} (hf : s.faulted = false)
    (hq : s.q = b :: rest) : exec .qPopBlocking s = .next { s with q := rest, ret := .byte b } := by
  simp [exec, execQPopBlocking, whenLive_of_live _ hf, qPop_cons hq]

theorem exec_qPopBlocking_of_nil (hf : s.faulted = false) (hq : s.q = []) :
    exec .qPopBlocking s = .next s := by
  simp [exec, execQPopBlocking, whenLive_of_live _ hf, qPop_eq_none.mpr hq]

theorem hasData_eq_decide (s : State) : hasData s = decide (0 < s.q.length) := by
  unfold hasData
  cases s.q <;> simp

theorem exec_qHasData (hf : s.faulted = false) :
    exec .qHasData s = .next { s with ret := .flag (decide (0 < s.q.length)) } := by
  rw [← hasData_eq_decide]
  exact whenLive_of_live _ hf

end Operations

/-- Settles O11: a push by whether the queue is full, a pop by whether it is empty. -/
theorem queueOperations : Obligations.QueueOperations := by
  intro b s hf
  refine ⟨?_, fun c rest hq => exec_qPopBlocking_of_cons hf hq, exec_qPopBlocking_of_nil hf,
    exec_qHasData hf⟩
  split_ifs with hfull
  · exact exec_qTryPush_of_full b hf hfull
  · exact exec_qTryPush_of_room b hf hfull

/-- Settles O12: by the two things the receive event can do on a live block. -/
theorem rxEventResult : Obligations.RxEventResult := fun b _ hf =>
  ⟨fun hroom => execRxEvent_of_room b hf hroom.ne, execRxEvent_of_full b hf⟩

/-! ## What each step does to the queue -/

theorem CommandStep.q_eq {s t : State} (h : CommandStep s t) : t.q = s.q := by cases h <;> rfl

/-- A step of ML keeps the queue, or takes the oldest byte out. -/
theorem MlStep.q_cases {s t : State} (h : MlStep s t) : t.q = s.q ∨ ∃ b, s.q = b :: t.q := by
  cases h with
  | fetch b _ _ _ hq => exact .inr ⟨b, hq⟩
  | fetchUndefined b _ _ _ hq => exact .inr ⟨b, hq⟩
  | payload b _ _ _ hq => exact .inr ⟨b, hq⟩
  | command _ h => exact .inl h.q_eq
  | _ => exact .inl rfl

theorem execReset_q {s t : State} (h : execReset s = .next t) : t.q = [] := by
  cases h
  simp [newController]

/-! ## The capacity law (R116) -/

/-- Only a receive event that finds room makes the queue longer. -/
theorem step_keeps_capacity {s t : State} (hle : s.q.length ≤ Config.queueCapacity)
    (h : step s = .next t) : t.q.length ≤ Config.queueCapacity := by
  obtain ⟨b, -, h⟩ | ⟨-, h⟩ | ⟨-, h⟩ := step_eq_next h
  · obtain ⟨-, rfl⟩ | ⟨-, hroom, rfl⟩ | ⟨-, -, rfl⟩ := execRxEvent_eq_next h
    · exact hle
    · rw [List.length_append]
      exact Nat.lt_of_le_of_ne hle hroom
    · exact hle
  · obtain ⟨-, rfl⟩ | ⟨-, h⟩ := mlStep_eq_next h
    · exact hle
    · obtain hkeep | ⟨b, htake⟩ := h.q_cases
      · rwa [hkeep]
      · rw [withMove_q] at htake
        rw [htake] at hle
        exact Nat.le_of_succ_le hle
  · rw [execReset_q h]
    exact Nat.zero_le _

/-- Settles O14: the step lemma, and the receive event on a full queue. -/
theorem capacityNeverExceeded : Obligations.CapacityNeverExceeded :=
  ⟨fun _ _ => step_keeps_capacity, Nat.zero_le _, rfl, fun b _ hf hfull => execRxEvent_of_full b hf hfull⟩

/-! ## The FIFO law of the operations (R115) -/

section QueueRun

variable {s : State} (ops : List QueueOp)

theorem queueRun_push_of_room (b : Byte) (hf : s.faulted = false)
    (hroom : s.q.length ≠ Config.queueCapacity) :
    queueRun (.push b :: ops) s =
      { queueRun ops { s with q := s.q ++ [b], ret := .ok } with
        pushed := b :: (queueRun ops { s with q := s.q ++ [b], ret := .ok }).pushed } := by
  simp [queueRun, exec_qTryPush_of_room b hf hroom]

theorem queueRun_push_of_full (b : Byte) (hf : s.faulted = false)
    (hfull : s.q.length = Config.queueCapacity) :
    queueRun (.push b :: ops) s = queueRun ops { s with ret := .full } := by
  simp [queueRun, exec_qTryPush_of_full b hf hfull]

theorem queueRun_pop_of_cons {b : Byte} {rest : List Byte} (hf : s.faulted = false) (hq : s.q = b :: rest) :
    queueRun (.pop :: ops) s =
      { queueRun ops { s with q := rest, ret := .byte b } with
        popped := b :: (queueRun ops { s with q := rest, ret := .byte b }).popped } := by
  simp [queueRun, exec_qPopBlocking_of_cons hf hq, hasData, hq]

theorem queueRun_pop_of_nil (hf : s.faulted = false) (hq : s.q = []) :
    queueRun (.pop :: ops) s = queueRun ops s := by
  simp [queueRun, exec_qPopBlocking_of_nil hf hq, hasData, hq]

end QueueRun

/-- From any queue: the bytes that were in it and then those pushed are those popped and then those left. -/
theorem queueRun_fifo (ops : List QueueOp) {s : State} (hf : s.faulted = false) :
    s.q ++ (queueRun ops s).pushed = (queueRun ops s).popped ++ (queueRun ops s).final.q := by
  induction ops generalizing s with
  | nil => simp [queueRun]
  | cons op ops ih =>
    cases op with
    | push b =>
      by_cases hfull : s.q.length = Config.queueCapacity
      · rw [queueRun_push_of_full ops b hf hfull]
        exact ih (s := { s with ret := .full }) hf
      · rw [queueRun_push_of_room ops b hf hfull, ← ih (s := { s with q := s.q ++ [b], ret := .ok }) hf]
        simp
    | pop =>
      cases hq : s.q with
      | nil =>
        rw [queueRun_pop_of_nil ops hf hq, ← hq]
        exact ih hf
      | cons b rest =>
        rw [queueRun_pop_of_cons ops hf hq]
        exact congrArg (b :: ·) (ih (s := { s with q := rest, ret := .byte b }) hf)

/-! ## The FIFO law of whole runs (R115) -/

theorem CommandStep.env_eq {s t : State} (h : CommandStep s t) : t.env = s.env := by cases h <;> rfl

theorem MlStep.env_eq {s t : State} (h : MlStep s t) : t.env = s.env := by
  cases h with
  | command _ h => exact h.env_eq
  | _ => rfl

/-- A step uses up one choice of the script and no more. -/
theorem step_env {s t : State} (h : step s = .next t) : t.env = s.env.tail := by
  obtain ⟨b, -, h⟩ | ⟨-, h⟩ | ⟨-, h⟩ := step_eq_next h
  · obtain ⟨-, rfl⟩ | ⟨-, -, rfl⟩ | ⟨-, -, rfl⟩ := execRxEvent_eq_next h <;> rfl
  · obtain ⟨-, rfl⟩ | ⟨-, h⟩ := mlStep_eq_next h
    · rfl
    · exact h.env_eq
  · cases h
    simp [newController]

/-- RX or ML moves next. -/
def agentMoves (m : Move) : Prop := m.mover = .ml ∨ ∃ b, m.mover = .rx b

/-- A step of RX or ML that leaves the block live found it live, and what is sent goes in behind what is
queued, while what is consumed comes out in front. -/
theorem step_fifo {s t : State} (hm : agentMoves (nextMove s)) (h : step s = .next t)
    (hft : t.faulted = false) :
    s.faulted = false ∧ s.q ++ sentNext s = takenNext s t ++ t.q := by
  obtain ⟨b, hb, h⟩ | ⟨hml, h⟩ | ⟨hr, -⟩ := step_eq_next h
  · have hs : sentNext s = [b] := by simp [sentNext, hb]
    have ht : takenNext s t = [] := by simp [takenNext, hb]
    rw [hs, ht]
    obtain ⟨hf, rfl⟩ | ⟨hf, -, rfl⟩ | ⟨-, -, rfl⟩ := execRxEvent_eq_next h
    · rw [hf] at hft; cases hft
    · exact ⟨hf, rfl⟩
    · cases hft
  · have hs : sentNext s = [] := by simp [sentNext, hml]
    have ht : takenNext s t = s.q.take (s.q.length - t.q.length) := by simp [takenNext, hml]
    rw [hs, ht, List.append_nil]
    obtain ⟨hf, rfl⟩ | ⟨hf, h⟩ := mlStep_eq_next h
    · rw [blink_faulted, hf] at hft; cases hft
    · refine ⟨hf, ?_⟩
      obtain hkeep | ⟨b, htake⟩ := h.q_cases
      · simp [hkeep]
      · rw [withMove_q] at htake
        simp [htake]
  · obtain hr | hr := hr <;> simp [agentMoves, hr] at hm

theorem traffic_succ {n : Nat} {s t : State} (h : step s = .next t) :
    traffic (n + 1) s = ⟨sentNext s ++ (traffic n t).sent, takenNext s t ++ (traffic n t).consumed⟩ := by
  simp [traffic, h]

/-- A run of RX and ML that ends live was live all along, so each of its steps obeys the law. -/
theorem run_fifo {n : Nat} {s t : State} (hn : n ≤ s.env.length) (henv : ∀ m ∈ s.env, agentMoves m)
    (h : stepN n s = .next t) (hft : t.faulted = false) :
    s.faulted = false ∧ s.q ++ (traffic n s).sent = (traffic n s).consumed ++ t.q := by
  induction n generalizing s with
  | zero =>
    cases h
    exact ⟨hft, by simp [traffic]⟩
  | succ n ih =>
    obtain ⟨u, hu, hrest⟩ := andThen_eq_next.mp h
    cases he : s.env with
    | nil => rw [he] at hn; cases hn
    | cons m later =>
      have hm : agentMoves (nextMove s) := by
        rw [nextMove, he]
        exact henv m (by simp [he])
      have hue : u.env = later := by rw [step_env hu, he]; rfl
      obtain ⟨hfu, hrun⟩ := ih (s := u) (by rw [hue]; rw [he] at hn; exact Nat.le_of_succ_le_succ hn)
        (fun m' hm' => henv m' (by rw [he]; exact .tail _ (hue ▸ hm'))) hrest
      obtain ⟨hfs, hstep⟩ := step_fifo hm hu hfu
      refine ⟨hfs, ?_⟩
      rw [traffic_succ hu]
      calc s.q ++ (sentNext s ++ (traffic n u).sent)
          = takenNext s u ++ (u.q ++ (traffic n u).sent) := by
            rw [← List.append_assoc, hstep, List.append_assoc]
        _ = takenNext s u ++ (traffic n u).consumed ++ t.q := by rw [hrun, List.append_assoc]

/-- Settles O13: by induction on the operations, and on the steps of the run. -/
theorem fifoLaw : Obligations.FifoLaw := by
  refine ⟨fun ops s hf hq => ?_, fun n s t hn henv h hft => (run_fifo hn henv h hft).2⟩
  simpa [hq] using queueRun_fifo ops hf

end Sys2Proof.Machine
end

section
/-! SUPPORT. The Non-Volatile Store (41_nonvolatile_store): the result of each of its operations (R131 to
R134), the round trip of a record (R135), and a power loss inside a persist (R136). -/

namespace Sys2Proof.Machine

/-! ## The words of the sector -/

/-- A sector with a word that is not erased is not erased. -/
theorem nvsErased_eq_false {n : Nvs} {i : Nat} (h : nvsRead n i ≠ Config.erasedWord) :
    nvsErased n = false := by
  induction n with
  | nil => exact absurd (nvsRead_nil i) h
  | cons p rest ih =>
    by_cases hp : p.1 = i
    · have hw : p.2 ≠ Config.erasedWord := by rwa [nvsRead, if_pos hp] at h
      simp [nvsErased, hw]
    · rw [nvsRead, if_neg hp] at h
      have hrest : rest.all (fun q => q.2 == Config.erasedWord) = false := ih h
      rw [nvsErased, List.all_cons, hrest, Bool.and_false]

/-- The whole sector after a program pass on the erased sector (R132). -/
theorem nvsRead_programmed (w : RecordWords) :
    nvsRead (nvsProgram [] w) 0 = w.w0 ∧ nvsRead (nvsProgram [] w) 1 = w.w1
      ∧ nvsRead (nvsProgram [] w) 2 = w.w2 ∧ nvsRead (nvsProgram [] w) 3 = w.w3
      ∧ nvsRead (nvsProgram [] w) 4 = w.w4 ∧ nvsRead (nvsProgram [] w) 5 = w.w5
      ∧ ∀ i, 6 ≤ i → nvsRead (nvsProgram [] w) i = Config.erasedWord := by
  have hread := nvsRead_nvsProgram w (n := []) rfl
  refine ⟨hread 0, hread 1, hread 2, hread 3, hread 4, hread 5, fun i hi => ?_⟩
  rw [hread i, if_neg (by omega), if_neg (by omega), if_neg (by omega), if_neg (by omega),
    if_neg (by omega), if_neg (by omega), nvsRead_nil]

/-! ## The validator and the formatter (30_encoding R92 to R95) -/

theorem readRecord_of_magic {n : Nvs} (h : nvsRead n 0 = Config.magic) :
    readRecord n =
      some ⟨nvsRead n 1, nvsRead n 2, nvsRead n 3, intervalOf (nvsRead n 4) (nvsRead n 5)⟩ := if_pos h

theorem readRecord_of_noMagic {n : Nvs} (h : nvsRead n 0 ≠ Config.magic) : readRecord n = none := if_neg h

/-- The erased word is not the magic. -/
theorem readRecord_nil : readRecord [] = none := readRecord_of_noMagic (by decide)

/-- The validator reads the sector through its words alone. -/
theorem readRecord_congr {m n : Nvs} (h : ∀ a, nvsRead m a = nvsRead n a) : readRecord m = readRecord n := by
  simp only [readRecord, h]

/-- The validator takes back what the formatter laid out. -/
theorem readRecord_formatRecord (r : Record) : readRecord (nvsProgram [] (formatRecord r)) = some r := by
  obtain ⟨h0, h1, h2, h3, h4, h5, -⟩ := nvsRead_programmed (formatRecord r)
  rw [readRecord_of_magic h0, h1, h2, h3, h4, h5]
  simp only [formatRecord, intervalOf_split]

theorem intervalHi_eq_extract (t : U64) : intervalHi t = t.extractLsb' 32 32 :=
  BitVec.eq_of_toNat_eq (by simp [intervalHi])

theorem intervalLo_eq_extract (t : U64) : intervalLo t = t.extractLsb' 0 32 :=
  BitVec.eq_of_toNat_eq (by simp [intervalLo])

/-! ## The steps of a record write (R134) -/

section Write

variable {s : State}

theorem programSector_of_nil (w : RecordWords) (hn : s.nvs = []) :
    programSector w s =
      .next { s with nvs := nvsProgram [] w, trace := s.trace ++ [.program w] } := by
  rw [programSector_erased w (by rw [hn]; rfl), hn]
  rfl

/-- A program pass on a sector that is not erased is refused (93 U8). -/
theorem programSector_of_not_erased (w : RecordWords) {i : Nat}
    (h : nvsRead s.nvs i ≠ Config.erasedWord) : programSector w s = .refused .programNotErased := by
  simp [programSector, nvsErased_eq_false h]

theorem writeRecordStep_of_idle (r : Record) (hb : s.nvsBusy = .idle) :
    writeRecordStep r s =
      .next { s with nvs := [], trace := s.trace ++ [.erase], nvsBusy := .erasedPendingProgram } := by
  rw [writeRecordStep, hb]
  rfl

theorem writeRecordStep_of_pending (r : Record) (hb : s.nvsBusy = .erasedPendingProgram)
    (hn : s.nvs = []) :
    writeRecordStep r s =
      .next
        { s with
          nvs := nvsProgram [] (formatRecord r), trace := s.trace ++ [.program (formatRecord r)]
          nvsBusy := .idle } := by
  rw [writeRecordStep, hb]
  simp only [programSector_of_nil _ hn, andThen_next]

theorem writeRecordStep_of_not_erased (r : Record) {i : Nat} (hb : s.nvsBusy = .erasedPendingProgram)
    (h : nvsRead s.nvs i ≠ Config.erasedWord) :
    writeRecordStep r s = .refused .programNotErased := by
  rw [writeRecordStep, hb]
  simp only [programSector_of_not_erased _ h, andThen]

end Write

/-! ## The instructions of a live block (R131 to R134) -/

section Live

variable {s : State}

theorem exec_nvsErase_of_live (hf : s.faulted = false) :
    exec .nvsErase s = .next { s with nvs := [], trace := s.trace ++ [.erase] } := whenLive_of_live _ hf

theorem exec_nvsProgram_of_live (w : RecordWords) (hf : s.faulted = false) :
    exec (.nvsProgram w) s = programSector w s := whenLive_of_live _ hf

theorem exec_nvsReadRecord_of_live (hf : s.faulted = false) :
    exec .nvsReadRecord s = .next { s with ret := .record (readRecord s.nvs) } := whenLive_of_live _ hf

theorem exec_nvsWriteRecord_of_live (r : Record) (hf : s.faulted = false) :
    exec (.nvsWriteRecord r) s = writeRecordStep r s := whenLive_of_live _ hf

theorem exec_nvsWriteRecord_of_idle (r : Record) (hf : s.faulted = false) (hb : s.nvsBusy = .idle) :
    exec (.nvsWriteRecord r) s =
      .next { s with nvs := [], trace := s.trace ++ [.erase], nvsBusy := .erasedPendingProgram } :=
  (exec_nvsWriteRecord_of_live r hf).trans (writeRecordStep_of_idle r hb)

theorem exec_nvsWriteRecord_of_pending (r : Record) (hf : s.faulted = false)
    (hb : s.nvsBusy = .erasedPendingProgram) (hn : s.nvs = []) :
    exec (.nvsWriteRecord r) s =
      .next
        { s with
          nvs := nvsProgram [] (formatRecord r), trace := s.trace ++ [.program (formatRecord r)]
          nvsBusy := .idle } :=
  (exec_nvsWriteRecord_of_live r hf).trans (writeRecordStep_of_pending r hb hn)

theorem exec_nvsWriteRecord_of_not_erased (r : Record) {i : Nat} (hf : s.faulted = false)
    (hb : s.nvsBusy = .erasedPendingProgram) (h : nvsRead s.nvs i ≠ Config.erasedWord) :
    exec (.nvsWriteRecord r) s = .refused .programNotErased :=
  (exec_nvsWriteRecord_of_live r hf).trans (writeRecordStep_of_not_erased r hb h)

end Live

/-- Settles O17: the erased sector lists no word. -/
theorem eraseResult : Obligations.EraseResult := fun _ hf =>
  ⟨[], exec_nvsErase_of_live hf, nvsRead_nil⟩

/-- Settles O18: by whether the sector is erased. -/
theorem programResult : Obligations.ProgramResult := by
  intro w s hf
  rw [exec_nvsProgram_of_live w hf]
  exact ⟨fun hn => ⟨_, programSector_of_nil w hn, nvsRead_programmed w⟩,
    fun _ h => programSector_of_not_erased w h⟩

/-- Settles O19: by whether word 0 is the magic. -/
theorem readRecordResult : Obligations.ReadRecordResult := by
  intro s hf
  rw [exec_nvsReadRecord_of_live hf]
  refine ⟨fun hm => ?_, fun hm => ⟨_, intervalOf_toNat _ _, ?_⟩⟩
  · rw [readRecord_of_noMagic hm]
  · rw [readRecord_of_magic hm]

/-- Settles O20: the erase, the program pass with the formatted record, and the refusal. -/
theorem writeRecordSteps : Obligations.WriteRecordSteps := fun r _ hf =>
  ⟨exec_nvsWriteRecord_of_idle r hf,
    fun hb hn => ⟨_, formatRecord r, exec_nvsWriteRecord_of_pending r hf hb hn, rfl, rfl, rfl, rfl,
      intervalHi_eq_extract r.interval, intervalLo_eq_extract r.interval,
      nvsRead_programmed (formatRecord r)⟩,
    fun _ hb h => exec_nvsWriteRecord_of_not_erased r hf hb h⟩

/-- Settles O21: the write programs the formatted record, and the validator, which depends on the words
alone, takes it back. -/
theorem recordRoundTrip : Obligations.RecordRoundTrip := by
  intro r s hf hb
  refine ⟨_, _, exec_nvsWriteRecord_of_idle r hf hb, exec_nvsWriteRecord_of_pending r hf rfl rfl, rfl, ?_⟩
  intro v hv hsame
  rw [exec_nvsReadRecord_of_live hv, readRecord_congr hsame, readRecord_formatRecord]

/-! ## The steps of a persist request (44_supervisor R234, R240) -/

section Persist

variable {s : State} {p : Ports} {later : List Move}

/-- A step of ML, with the choice taken. -/
theorem step_ml (henv : s.env = ⟨.ml, p⟩ :: later) :
    step s = mlStep { s with env := later, ports := p } := blockStep_scripted henv

theorem mlStep_of_p0 (hf : s.faulted = false) (hp : s.mlp = .p0Local) : mlStep s = localPhase s := by
  simp [mlStep, hf, hp]

/-- P0 takes a persist request that is offered. -/
theorem localPhase_of_offer (hb : s.nvsBusy = .idle) (hlop : s.ports.lop = some .persist) :
    localPhase s = execLopPersist s := by
  rw [localPhase, hb, hlop]
  rfl

/-- P0 goes on with a persist under way. -/
theorem localPhase_of_pending (hb : s.nvsBusy = .erasedPendingProgram) :
    localPhase s = execLopPersist s := by
  rw [localPhase, hb]
  rfl

theorem execLopPersist_of_idle (hf : s.faulted = false) (hp : s.mlp = .p0Local)
    (hb : s.nvsBusy = .idle) :
    execLopPersist s =
      .next { s with nvs := [], trace := s.trace ++ [.erase], nvsBusy := .erasedPendingProgram } := by
  have hl : inLocalPhase s = true := by simp [inLocalPhase, hp]
  rw [execLopPersist, whenLive_of_live _ hf, if_pos hl, writeRecordStep_of_idle _ hb, andThen_next]

theorem execLopPersist_of_pending (hf : s.faulted = false) (hp : s.mlp = .p0Local)
    (hb : s.nvsBusy = .erasedPendingProgram) (hn : s.nvs = []) :
    execLopPersist s =
      .next
        { s with
          nvs := nvsProgram [] (formatRecord (currentRecord s))
          trace := s.trace ++ [.program (formatRecord (currentRecord s))]
          nvsBusy := .idle, mlp := .p1Sample } := by
  have hl : inLocalPhase s = true := by simp [inLocalPhase, hp]
  rw [execLopPersist, whenLive_of_live _ hf, if_pos hl, writeRecordStep_of_pending _ hb hn, andThen_next]

theorem mlStep_persistErase (hf : s.faulted = false) (hp : s.mlp = .p0Local) (hb : s.nvsBusy = .idle)
    (hlop : s.ports.lop = some .persist) :
    mlStep s =
      .next { s with nvs := [], trace := s.trace ++ [.erase], nvsBusy := .erasedPendingProgram } := by
  rw [mlStep_of_p0 hf hp, localPhase_of_offer hb hlop, execLopPersist_of_idle hf hp hb]

theorem mlStep_persistProgram (hf : s.faulted = false) (hp : s.mlp = .p0Local)
    (hb : s.nvsBusy = .erasedPendingProgram) (hn : s.nvs = []) :
    mlStep s =
      .next
        { s with
          nvs := nvsProgram [] (formatRecord (currentRecord s))
          trace := s.trace ++ [.program (formatRecord (currentRecord s))]
          nvsBusy := .idle, mlp := .p1Sample } := by
  rw [mlStep_of_p0 hf hp, localPhase_of_pending hb, execLopPersist_of_pending hf hp hb hn]

/-- What the erase step of a persist offered in P0 leaves for the step after it: an erased sector, and the
program step of the same record to be done. -/
theorem exists_step_persistErase (henv : s.env = ⟨.ml, p⟩ :: later) (hf : s.faulted = false)
    (hp : s.mlp = .p0Local) (hb : s.nvsBusy = .idle) (hlop : p.lop = some .persist) :
    ∃ t, step s = .next t ∧ t.env = later ∧ t.nvs = [] ∧ t.faulted = false ∧ t.mlp = .p0Local
      ∧ t.nvsBusy = .erasedPendingProgram ∧ currentRecord t = currentRecord s :=
  have hml := mlStep_persistErase (s := { s with env := later, ports := p }) hf hp hb hlop
  ⟨_, (step_ml henv).trans hml, rfl, rfl, hf, hp, rfl, rfl⟩

/-- What the program step, taken whatever is offered, leaves: the record in use, valid in the sector. -/
theorem exists_step_persistProgram (henv : s.env = ⟨.ml, p⟩ :: later) (hf : s.faulted = false)
    (hp : s.mlp = .p0Local) (hb : s.nvsBusy = .erasedPendingProgram) (hn : s.nvs = []) :
    ∃ t, step s = .next t ∧ t.env = later ∧ readRecord t.nvs = some (currentRecord s) :=
  have hml := mlStep_persistProgram (s := { s with env := later, ports := p }) hf hp hb hn
  ⟨_, (step_ml henv).trans hml, rfl, readRecord_formatRecord (currentRecord s)⟩

/-! ## A power loss and the reset after it (20_memory R73, 70_reset R291) -/

theorem restoreController_of_none (h : readRecord s.nvs = none) : restoreController s = s := by
  simp [restoreController, h]

theorem restoreController_of_some {r : Record} (h : readRecord s.nvs = some r) :
    restoreController s =
      { s with kp := r.kpBits, ki := r.kiBits, kd := r.kdBits, interval := r.interval } := by
  simp [restoreController, h]

theorem newController_of_none (h : readRecord s.nvs = none) : newController s = controllerDefaults s :=
  restoreController_of_none h

theorem newController_of_some {r : Record} (h : readRecord s.nvs = some r) :
    newController s =
      { controllerDefaults s with kp := r.kpBits, ki := r.kiBits, kd := r.kdBits, interval := r.interval } :=
  restoreController_of_some h

/-- With no valid record in the sector the reset sequence leaves the defaults (42_pid R151). -/
theorem execReset_of_none (h : readRecord s.nvs = none) :
    execReset s = .next (controllerDefaults (emit (.setHv false) (clearForReset s))) :=
  congrArg Host.Outcome.next (newController_of_none h)

/-- The reset sequence loads a valid record from the sector (42_pid R151, R152). -/
theorem execReset_of_some {r : Record} (h : readRecord s.nvs = some r) :
    execReset s =
      .next
        { controllerDefaults (emit (.setHv false) (clearForReset s)) with
          kp := r.kpBits, ki := r.kiBits, kd := r.kdBits, interval := r.interval } :=
  congrArg Host.Outcome.next (newController_of_some h)

theorem step_powerLoss (henv : s.env = ⟨.powerLoss, p⟩ :: later) :
    step s = execReset { s with env := later, ports := p } := blockStep_scripted henv

/-- A power loss with no valid record in the sector: the next power-up starts from the defaults. -/
theorem exists_step_powerLoss_of_none (henv : s.env = ⟨.powerLoss, p⟩ :: later)
    (h : readRecord s.nvs = none) :
    ∃ t, step s = .next t ∧ t.nvs = s.nvs ∧ t.kp = Config.kpDefault ∧ t.ki = Config.kiDefault
      ∧ t.kd = Config.kdDefault ∧ t.interval = Config.ctrlIntervalDefault ∧ t.nvsBusy = .idle :=
  ⟨_, (step_powerLoss henv).trans (execReset_of_none h), rfl, rfl, rfl, rfl, rfl, rfl⟩

/-- A power loss with a valid record in the sector: the next power-up loads it. -/
theorem exists_step_powerLoss_of_some {r : Record} (henv : s.env = ⟨.powerLoss, p⟩ :: later)
    (h : readRecord s.nvs = some r) :
    ∃ t, step s = .next t ∧ t.nvs = s.nvs ∧ t.kp = r.kpBits ∧ t.ki = r.kiBits ∧ t.kd = r.kdBits
      ∧ t.interval = r.interval :=
  ⟨_, (step_powerLoss henv).trans (execReset_of_some h), rfl, rfl, rfl, rfl, rfl⟩

end Persist

theorem stepN_succ_of_step {n : Nat} {s t : State} (h : step s = .next t) :
    stepN (n + 1) s = stepN n t := by rw [stepN, h, andThen_next]

/-- Settles O22: the power loss finds the sector erased after the first step of the persist, and the
record of the gains and the interval in use after the second. -/
theorem powerLossDuringPersist : Obligations.PowerLossDuringPersist := by
  intro s p1 p2 p3 rest hf hp hb hlop
  refine ⟨fun henv => ?afterErase, fun henv => ?afterProgram⟩
  case afterErase =>
    obtain ⟨u, herase, hue, hun, -⟩ := exists_step_persistErase henv hf hp hb hlop
    have hnone : readRecord u.nvs = none := by rw [hun, readRecord_nil]
    obtain ⟨t, hloss, htn, hdefaults⟩ := exists_step_powerLoss_of_none hue hnone
    have herased (i : Nat) : nvsRead t.nvs i = Config.erasedWord := by rw [htn, hun, nvsRead_nil]
    exact ⟨t, (stepN_succ_of_step herase).trans (stepN_succ_of_step hloss), herased, hdefaults⟩
  case afterProgram =>
    obtain ⟨u, herase, hue, hun, huf, hup, hub, hur⟩ := exists_step_persistErase henv hf hp hb hlop
    obtain ⟨v, hprogram, hve, hvr⟩ := exists_step_persistProgram hue huf hup hub hun
    rw [hur] at hvr
    obtain ⟨t, hloss, htn, hkp, hki, hkd, hinterval⟩ := exists_step_powerLoss_of_some hve hvr
    have hrun : stepN 3 s = .next t :=
      (stepN_succ_of_step herase).trans <| (stepN_succ_of_step hprogram).trans (stepN_succ_of_step hloss)
    exact ⟨t, hrun, hkp, hki, hkd, hinterval, by rw [htn, hvr]; rfl⟩

end Sys2Proof.Machine
end

section
/-! SUPPORT. The operations of the PID controller that store and read back (42_pid_controller): construction,
restore and persist (R151 to R153), the rate limiter (R154) and the setpoint (R155, R156). -/

namespace Sys2Proof.Machine

/-! ## Construction, restore and persist (R151 to R153) -/

theorem exec_pidNew_of_live {s : State} (hf : s.faulted = false) :
    exec .pidNew s = .next (newController s) := whenLive_of_live _ hf

theorem exec_pidRestore_of_live {s : State} (hf : s.faulted = false) :
    exec .pidRestore s = .next (restoreController s) := whenLive_of_live _ hf

theorem exec_pidPersist_of_live {s : State} (hf : s.faulted = false) :
    exec .pidPersist s = writeRecordStep (currentRecord s) s := whenLive_of_live _ hf

/-- Settles O25: by whether word 0 is the magic. -/
theorem pidNewResult : Obligations.PidNewResult := by
  intro s hf
  refine ⟨_, intervalOf_toNat _ _, ?_⟩
  rw [exec_pidNew_of_live hf]
  by_cases hm : nvsRead s.nvs 0 = 0x444E4A4E#32
  · rw [newController_of_some (readRecord_of_magic hm)]
    simp only [if_pos hm]
    rfl
  · rw [newController_of_none (readRecord_of_noMagic hm)]
    simp only [if_neg hm]
    rfl

/-- Settles O26: by whether word 0 is the magic. -/
theorem pidRestoreResult : Obligations.PidRestoreResult := by
  intro s hf
  rw [exec_pidRestore_of_live hf]
  refine ⟨fun hm => ?_, fun hm => ⟨_, intervalOf_toNat _ _, ?_⟩⟩
  · rw [restoreController_of_none (readRecord_of_noMagic hm)]
  · rw [restoreController_of_some (readRecord_of_magic hm)]

/-- A program pass writes the six words it is given, and they are what the sector then holds. -/
theorem recordWords_nvsProgram (w : RecordWords) :
    w = ⟨nvsRead (nvsProgram [] w) 0, nvsRead (nvsProgram [] w) 1, nvsRead (nvsProgram [] w) 2,
      nvsRead (nvsProgram [] w) 3, nvsRead (nvsProgram [] w) 4, nvsRead (nvsProgram [] w) 5⟩ := by
  obtain ⟨h0, h1, h2, h3, h4, h5, -⟩ := nvsRead_programmed w
  rw [h0, h1, h2, h3, h4, h5]

theorem nvsRead_programmed_above (w : RecordWords) {i : Nat} (hi : 6 ≤ i) :
    nvsRead (nvsProgram [] w) i = Config.erasedWord := by
  obtain ⟨-, -, -, -, -, -, habove⟩ := nvsRead_programmed w
  exact habove i hi

/-- Settles O27: the steps of the record write (R134) for the record of the gains and the interval in use. -/
theorem pidPersistSteps : Obligations.PidPersistSteps := by
  intro s hf
  rw [exec_pidPersist_of_live hf]
  exact ⟨writeRecordStep_of_idle _,
    fun hb hn => ⟨_, _, writeRecordStep_of_pending _ hb hn, readRecord_formatRecord (currentRecord s),
      recordWords_nvsProgram _, fun _ hi => nvsRead_programmed_above _ hi⟩,
    fun _ hb h => writeRecordStep_of_not_erased _ hb h⟩

/-! ## The rate limiter (R154) -/

/-- The larger timestamp minus the smaller does not wrap. -/
theorem toNat_tickDistance (a b : U64) :
    (tickDistance a b).toNat =
      if b.toNat ≤ a.toNat then a.toNat - b.toNat else b.toNat - a.toNat := by
  simp only [tickDistance, BitVec.ule, decide_eq_true_eq]
  split
  · next h => exact BitVec.toNat_sub_of_le h
  · next h => exact BitVec.toNat_sub_of_le (Nat.le_of_not_le h)

/-- Settles O28: the comparison of words is that of the numbers they hold. -/
theorem needsControlResult : Obligations.NeedsControlResult := by
  intro now s hf
  rw [← toNat_tickDistance]
  exact whenLive_of_live _ hf

/-! ## The setpoint (R155, R156) -/

theorem exec_pidSetSetpoint_of_live (v : F32) {s : State} (hf : s.faulted = false) :
    exec (.pidSetSetpoint v) s = .next (storeSetpoint v s) := whenLive_of_live _ hf

theorem exec_pidGetSetpoint_of_live {s : State} (hf : s.faulted = false) :
    exec .pidGetSetpoint s = .next { s with ret := .setpoint s.setpoint } := whenLive_of_live _ hf

/-- Settles O29: both operations of a live block. -/
theorem setpointOperations : Obligations.SetpointOperations := fun v _ hf =>
  ⟨exec_pidSetSetpoint_of_live v hf, exec_pidGetSetpoint_of_live hf⟩

end Sys2Proof.Machine
end

section
/-! SUPPORT. The values of a control step (42_pid_controller): the limiter and the default law (R162, R163),
the defensive clamp (R165), and the range of the command (R166, R168, R169). -/

namespace Sys2Proof.Machine

/-! ## Values within a limit -/

theorem f32Key_of_nonneg {x : F32} (hp : f32Neg x = false) : f32Key x = f32Mag x := by simp [f32Key, hp]

/-- A value that is not zero has the sign of its key. -/
theorem f32Neg_of_f32Key_ne_zero {x : F32} (h : f32Key x ≠ 0) : f32Neg x = decide (f32Key x < 0) := by
  cases hn : f32Neg x with
  | false => simp [f32Key, hn]
  | true =>
    simp only [f32Key, hn, if_true] at h ⊢
    exact (decide_eq_true (by omega)).symm

/-- A number neither above a limit nor below its negation is one of no greater magnitude. -/
theorem within_iff_f32Mag_le {l v : F32} (hl : f32IsNaN l = false) (hp : f32Neg l = false)
    (hv : f32IsNaN v = false) :
    (fgt v l = false ∧ flt v (fneg l) = false) ↔ f32Mag v ≤ f32Mag l := by
  have habs := f32Key_natAbs v
  simp only [fgt, ← Bool.not_eq_true, flt_iff, hl, hv, f32IsNaN_fneg, f32Key_fneg, f32Key_of_nonneg hp,
    true_and, not_lt]
  omega

/-! ## The limiter and the default law (R162, R163) -/

theorem lim_of_above {l v : F32} (h : fgt v l = true) : lim l v = l := by simp [lim, h]

theorem lim_of_below {l v : F32} (ha : fgt v l = false) (hb : flt v (fneg l) = true) :
    lim l v = fneg l := by simp [lim, ha, hb]

theorem lim_of_within {l v : F32} (ha : fgt v l = false) (hb : flt v (fneg l) = false) : lim l v = v := by
  simp [lim, ha, hb]

theorem lim_bounds {l v : F32} (hl : f32IsNaN l = false) (hp : f32Neg l = false)
    (hv : f32IsNaN v = false) :
    f32IsNaN (lim l v) = false ∧ fgt (lim l v) l = false ∧ flt (lim l v) (fneg l) = false := by
  obtain ⟨hnan, hmag⟩ := lim_spec v hl hp
  have hn : f32IsNaN (lim l v) = false := hnan.trans hv
  exact ⟨hn, (within_iff_f32Mag_le hl hp hn).2 (hmag hv)⟩

/-- What the hardwired limit lets through is NaN or within it. -/
theorem lim_limit (v : F32) :
    f32IsNaN (lim Config.limit v) = true ∨ f32Mag (lim Config.limit v) ≤ f32Mag Config.limit := by
  obtain ⟨hnan, hmag⟩ := lim_spec (l := Config.limit) v (by decide) (by decide)
  cases hv : f32IsNaN v with
  | true => exact .inl (hnan.trans hv)
  | false => exact .inr (hmag hv)

theorem defaultLaw_raw_bounded {i : LawInput} (h : i.outLimit = Config.limit) :
    f32IsNaN (defaultLaw i).raw = true ∨ f32Mag (defaultLaw i).raw ≤ f32Mag Config.limit := by
  simp only [defaultLaw, h, lim_limit]

theorem defaultLaw_integral_bounded {i : LawInput} (h : i.iLimit = Config.limit) :
    f32IsNaN (defaultLaw i).integral = true
      ∨ f32Mag (defaultLaw i).integral ≤ f32Mag Config.limit := by
  simp only [defaultLaw, h, lim_limit]

/-- Settles O33: the three cases of the limiter, and the two outputs of the law that pass through it. -/
theorem defaultLawBounded : Obligations.DefaultLawBounded :=
  ⟨fun _ _ => ⟨lim_of_above, lim_of_below, lim_of_within, lim_bounds⟩,
    fun _ hout hi => ⟨defaultLaw_raw_bounded hout, defaultLaw_integral_bounded hi⟩⟩

/-- A NaN integral term stays NaN (R164). -/
theorem defaultLaw_integral_nan {i : LawInput} (h : f32IsNaN i.integral = true) :
    f32IsNaN (defaultLaw i).integral = true := f32IsNaN_lim _ (fadd_nan (.inl h))

/-- A NaN in the new integral term makes the raw value NaN: it is a term of its sum (R164). -/
theorem defaultLaw_raw_nan {i : LawInput} (h : f32IsNaN (defaultLaw i).integral = true) :
    f32IsNaN (defaultLaw i).raw = true := f32IsNaN_lim _ (fadd_nan (.inl (fadd_nan (.inr h))))

/-- A converted measurement is a number (R164). -/
theorem f32IsNaN_f32OfU16 (m : U16) : f32IsNaN (f32OfU16 m) = false := by
  obtain ⟨-, -, hn⟩ := f32Round_spec false (m.toNat <<< 149) 0
  exact hn

/-! ## The defensive clamp (R165) -/

section Clamp

variable {l raw : F32}

theorem fgt_fabs_iff (hl : f32IsNaN l = false) (hp : f32Neg l = false)
    (hr : f32IsNaN raw = false) : fgt (fabs raw) l = true ↔ f32Mag l < f32Mag raw := by
  simp [fgt, flt_iff, hl, hr, f32Key_of_nonneg hp]

theorem flt_zero_iff (hr : f32IsNaN raw = false) : flt raw 0#32 = true ↔ f32Key raw < 0 := by
  rw [flt_iff, hr, show f32Key 0#32 = 0 from rfl]
  simp [show f32IsNaN 0#32 = false from rfl]

/-- The clamp limits the magnitude and gives it the sign of the comparison with zero. -/
theorem defClamp_eq (hl : f32IsNaN l = false) (hp : f32Neg l = false) (hr : f32IsNaN raw = false) :
    defClamp l raw =
      if f32Key raw < 0 then fneg (if f32Mag l < f32Mag raw then l else fabs raw)
      else if f32Mag l < f32Mag raw then l else fabs raw := by
  simp only [defClamp, fgt_fabs_iff hl hp hr, flt_zero_iff hr]

theorem defClamp_of_above (hl : f32IsNaN l = false) (hp : f32Neg l = false) (hr : f32IsNaN raw = false)
    (h : fgt raw l = true) : defClamp l raw = l := by
  obtain ⟨-, -, hlt⟩ := flt_iff.1 h
  have habs := f32Key_natAbs raw
  rw [f32Key_of_nonneg hp] at hlt
  rw [defClamp_eq hl hp hr, if_neg (by omega), if_pos (by omega)]

theorem defClamp_of_below (hl : f32IsNaN l = false) (hp : f32Neg l = false) (hr : f32IsNaN raw = false)
    (h : flt raw (fneg l) = true) : defClamp l raw = fneg l := by
  obtain ⟨-, -, hlt⟩ := flt_iff.1 h
  have habs := f32Key_natAbs raw
  rw [f32Key_fneg, f32Key_of_nonneg hp] at hlt
  rw [defClamp_eq hl hp hr, if_pos (by omega), if_pos (by omega)]

/-- Within the limit the magnitude stays as it is, and the sign of a value that is not zero comes back. -/
theorem defClamp_of_within (hl : f32IsNaN l = false) (hp : f32Neg l = false) (hr : f32IsNaN raw = false)
    (h : f32Mag raw ≤ f32Mag l) (h0 : f32Mag raw ≠ 0) : defClamp l raw = raw := by
  have habs := f32Key_natAbs raw
  have hsign := f32Neg_of_f32Key_ne_zero (x := raw) (by omega)
  rw [defClamp_eq hl hp hr, if_neg (Nat.not_lt.2 h)]
  split_ifs with hneg
  · exact eq_of_neg_of_mag (by simp [hsign, hneg]) (by simp)
  · exact eq_of_neg_of_mag (by simp [hsign, hneg]) (by simp)

/-- Zero is not below zero, so the clamp drops its sign. -/
theorem defClamp_of_zero (hl : f32IsNaN l = false) (hp : f32Neg l = false) (h : f32Mag raw = 0) :
    defClamp l raw = 0#32 := by
  have hr : f32IsNaN raw = false := by simp [f32IsNaN, h]
  have habs := f32Key_natAbs raw
  rw [defClamp_eq hl hp hr, if_neg (by omega), if_neg (by omega)]
  exact eq_of_neg_of_mag (f32Neg_fabs raw) ((f32Mag_fabs raw).trans h)

/-- The clamp gives a number within the limit, whatever number it is given. -/
theorem defClamp_spec (hl : f32IsNaN l = false) (hp : f32Neg l = false) (hr : f32IsNaN raw = false) :
    f32IsNaN (defClamp l raw) = false ∧ f32Mag (defClamp l raw) ≤ f32Mag l := by
  rw [defClamp_eq hl hp hr]
  split_ifs with hneg h h
  · exact ⟨by simp [hl], by simp⟩
  · exact ⟨by simp [hr], by simpa using h⟩
  · exact ⟨hl, Nat.le_refl _⟩
  · exact ⟨by simp [hr], by simpa using h⟩

end Clamp

/-- Settles O31: the clamp by where the value stands to the limits and to zero. -/
theorem defensiveClampBounds : Obligations.DefensiveClampBounds := by
  intro raw hr
  have hl : f32IsNaN Config.limit = false := by decide
  have hp : f32Neg Config.limit = false := by decide
  obtain ⟨hn, hmag⟩ := defClamp_spec hl hp hr
  obtain ⟨habove, hbelow⟩ := (within_iff_f32Mag_le hl hp hn).2 hmag
  exact ⟨hn, habove, hbelow, defClamp_of_above hl hp hr, defClamp_of_below hl hp hr,
    fun ha hb => defClamp_of_within hl hp hr ((within_iff_f32Mag_le hl hp hr).1 ⟨ha, hb⟩),
    defClamp_of_zero hl hp⟩

/-! ## The range of the command (R166, R168, R169) -/

/-- A magnitude up to `m * 2^e` units rounds to a value that is not negative and no greater: rounding keeps
a bound that is itself a value. -/
theorem f32Round_bounds {n m e : Nat} (hn : n ≤ m * 2 ^ e) (hm : 8388608 ≤ m) (hm' : m < 16777216)
    (he : e * 8388608 + m < f32InfMag) :
    f32Finite (f32Round false n 0) = true ∧ 0 ≤ f32Int (f32Round false n 0)
      ∧ f32Int (f32Round false n 0) ≤ (m * 2 ^ e : Nat) := by
  obtain ⟨hsign, hmag, -⟩ := f32Round_spec false n 0
  have hround : f32Mag (f32Round false n 0) ≤ e * 8388608 + m := hmag ▸ roundMag_le hn hm hm'
  have hint : f32Int (f32Round false n 0) = f32Units (f32Round false n 0) := by simp [f32Int, hsign]
  rw [hint]
  exact ⟨decide_eq_true (Nat.lt_of_le_of_lt hround he), Int.natCast_nonneg _,
    Int.ofNat_le.2 (f32Units_le hround hm hm')⟩

/-- A value within the limit plus the limit is 0.0 to 400.0. -/
theorem fadd_limit_spec {c : F32} (hc : f32Mag c ≤ f32Mag Config.limit) :
    f32Finite (fadd c Config.limit) = true ∧ 0 ≤ f32Int (fadd c Config.limit)
      ∧ f32Int (fadd c Config.limit) ≤ 400 * 2 ^ 149 := by
  have hfin : f32Finite c = true := decide_eq_true (Nat.lt_of_le_of_lt hc (by decide))
  have hlimit : f32Int Config.limit = 200 * 2 ^ 149 := by decide
  have hunits : f32Units c ≤ 13107200 * 2 ^ 133 := f32Units_le hc (by decide) (by decide)
  have habs := f32Int_natAbs c
  have hsum : fadd c Config.limit = f32Round false (f32Int c + f32Int Config.limit).natAbs 0 := by
    rw [fadd_of_finite hfin (by decide)]
    congr 1
    split_ifs
    · exact Bool.and_false _
    · exact decide_eq_false (by omega)
  rw [hsum]
  exact f32Round_bounds (m := 13107200) (e := 134) (by omega) (by decide) (by decide) (by decide)

/-- The remap of a value within the limit is 0 to 400 (R168). -/
theorem remap_le {c : F32} (hc : f32Mag c ≤ f32Mag Config.limit) :
    (remap Config.limit c).toNat ≤ 400 := by
  obtain ⟨hfin, hnonneg, hle⟩ := fadd_limit_spec hc
  have htrunc := truncU16_toNat hfin hnonneg (by omega)
  rw [remap]
  omega

theorem drawUpTo_le (bound : U16) (s : State) : (drawUpTo bound s).toNat ≤ bound.toNat := by
  have hlt := Nat.mod_lt (Config.freeOutput s.draws).toNat (Nat.succ_pos bound.toNat)
  rw [drawUpTo, BitVec.toNat_ofNat]
  exact (Nat.mod_le _ _).trans (Nat.le_of_lt_succ hlt)

theorem controlOutput_of_nan {raw : F32} (s : State) (h : f32IsNaN raw = true) :
    controlOutput raw s = drawUpTo (truncU16 (fadd s.outLimit s.outLimit)) s := if_pos h

theorem controlOutput_of_number {raw : F32} (s : State) (h : f32IsNaN raw = false) :
    controlOutput raw s = remap s.outLimit (defClamp s.outLimit raw) := by simp [controlOutput, h]

/-- Whatever the raw value, the command is 0 to 400 (R169). -/
theorem controlOutput_le (raw : F32) {s : State} (hs : s.outLimit = Config.limit) :
    (controlOutput raw s).toNat ≤ 400 := by
  have hl : f32IsNaN Config.limit = false := by decide
  cases hr : f32IsNaN raw with
  | true =>
    rw [controlOutput_of_nan s hr, hs]
    exact (drawUpTo_le _ s).trans (remap_le (Nat.le_refl _))
  | false =>
    rw [controlOutput_of_number s hr, hs]
    obtain ⟨-, hmag⟩ := defClamp_spec hl (by decide) hr
    exact remap_le hmag

/-! ## The control step (R157) -/

theorem exec_pidStep_of_live (m : U16) (now : U64) {s : State} (hf : s.faulted = false) :
    exec (.pidStep m now) s =
      .next { (controlStep m now s).2 with ret := .output (controlStep m now s).1 } :=
  whenLive_of_live _ hf

/-- Settles O32: the command of any law is that of its raw value. -/
theorem controlOutputRange : Obligations.ControlOutputRange := fun _ m now _ hs =>
  ⟨controlOutput_le _ hs,
    fun hf => ⟨_, _, exec_pidStep_of_live m now hf, rfl, controlOutput_le _ hs⟩⟩

/-- The command is that of the law's raw value; a value is drawn only for NaN (R166). -/
theorem controlStep_output (m : U16) (now : U64) (s : State) :
    (controlStep m now s).1 = controlOutput (defaultLaw (lawInput m s)).raw s := rfl

theorem controlStep_draws_of_number {m : U16} {s : State} (now : U64)
    (h : f32IsNaN (defaultLaw (lawInput m s)).raw = false) : (controlStep m now s).2.draws = s.draws := by
  simp [controlStep, h]

/-- Settles O30: the terms of the default law, and the command by whether the raw value is NaN. -/
theorem pidStepResult : Obligations.PidStepResult := by
  intro m now s hf
  refine ⟨f32OfU16 m, _, _, _, lim s.dLimit (fmul (fneg (sampleDelta s.prevMeas (f32OfU16 m))) s.kd),
    (defaultLaw (lawInput m s)).raw, _, _, rfl, rfl, rfl, rfl, fun hprev => ?first, fun y hprev => ?later,
    rfl, exec_pidStep_of_live m now hf, fun hr => ?number, fun hr => ?nan⟩
  case first => rw [hprev]; rfl
  case later => rw [hprev]; rfl
  case number => exact ⟨controlStep_draws_of_number now hr, controlOutput_of_number s hr⟩
  case nan =>
    rw [controlStep_output, controlOutput_of_nan s hr]
    exact drawUpTo_le _ s

/-- Settles O34: the sums of the law keep a NaN, and a new setpoint writes the integral term anew. -/
theorem nanIntegralSticks : Obligations.NanIntegralSticks := by
  intro m now v s hf hi
  have hnew : f32IsNaN (defaultLaw (lawInput m s)).integral = true := defaultLaw_integral_nan hi
  exact ⟨defaultLaw_raw_nan hnew, ⟨_, exec_pidStep_of_live m now hf, hnew⟩,
    _, exec_pidSetSetpoint_of_live v hf, rfl⟩

end Sys2Proof.Machine
end

section
/-! SUPPORT. What each step of the block does to the registers of the PID controller (10_state R24 to R33):
the tuning is fixed after reset (42_pid_controller R153), and the control law's memory keeps its bounds
(R163, R164). -/

namespace Sys2Proof.Machine

/-! ## The registers of the controller -/

/-- The registers of the PID controller (10_state R24 to R30, R32, R33). -/
structure Controller where
  kp : F32
  ki : F32
  kd : F32
  pLimit : F32
  iLimit : F32
  dLimit : F32
  outLimit : F32
  setpoint : F32
  integral : F32
  prevMeas : Option F32
  interval : U64
  lastUpdate : U64

/-- The controller's part of a state. -/
def State.controller (s : State) : Controller :=
  { kp := s.kp, ki := s.ki, kd := s.kd
    pLimit := s.pLimit, iLimit := s.iLimit, dLimit := s.dLimit, outLimit := s.outLimit
    setpoint := s.setpoint, integral := s.integral, prevMeas := s.prevMeas
    interval := s.interval, lastUpdate := s.lastUpdate }

/-- A command of the serial protocol does not touch the controller. -/
theorem CommandStep.controller_eq {s t : State} (h : CommandStep s t) : t.controller = s.controller := by
  cases h <;> rfl

theorem execRxEvent_controller {b : Byte} {s t : State} (h : execRxEvent b s = .next t) :
    t.controller = s.controller := by
  obtain ⟨-, rfl⟩ | ⟨-, -, rfl⟩ | ⟨-, -, rfl⟩ := execRxEvent_eq_next h <;> rfl

/-- A step of a live ML leaves the controller as it is, or stores a setpoint, or is a control step. -/
theorem MlStep.controller_cases {s t : State} (h : MlStep s t) :
    t.controller = s.controller
    ∨ (∃ v, t.controller = (storeSetpoint v s).controller)
    ∨ ∃ m now, t.controller = (controlStep m now s).2.controller := by
  cases h with
  | setSetpoint v => exact .inr (.inl ⟨v, rfl⟩)
  | control => exact .inr (.inr ⟨_, _, rfl⟩)
  | command _ h => exact .inl h.controller_eq
  | _ => exact .inl rfl

/-- All a step of the block can do to the controller: nothing, a new setpoint, a control step, or the reset
sequence after a restart or a power loss. -/
theorem step_controller_cases {s t : State} (h : step s = .next t) :
    t.controller = s.controller
    ∨ (∃ v, t.controller = (storeSetpoint v s).controller)
    ∨ (∃ m now, t.controller = (controlStep m now s).2.controller)
    ∨ (((nextMove s).mover = .restart ∨ (nextMove s).mover = .powerLoss)
      ∧ execReset (withMove s) = .next t) := by
  obtain ⟨b, -, h⟩ | ⟨-, h⟩ | hreset := step_eq_next h
  · exact .inl (execRxEvent_controller (s := withMove s) h)
  · obtain ⟨-, rfl⟩ | ⟨-, h⟩ := mlStep_eq_next h
    · exact .inl rfl
    · obtain hkeep | hset | hcontrol := h.controller_cases
      · exact .inl hkeep
      · exact .inr (.inl hset)
      · exact .inr (.inr (.inl hcontrol))
  · exact .inr (.inr (.inr hreset))

/-! ## The tuning (R153) -/

/-- The gains, the interval and the four limits of `t` are those of `s`. -/
def SameTuning (s t : State) : Prop :=
  t.kp = s.kp ∧ t.ki = s.ki ∧ t.kd = s.kd ∧ t.interval = s.interval
  ∧ t.pLimit = s.pLimit ∧ t.iLimit = s.iLimit ∧ t.dLimit = s.dLimit ∧ t.outLimit = s.outLimit

theorem SameTuning.of_controller {s t : State} (h : t.controller = s.controller) : SameTuning s t := by
  simp only [State.controller, Controller.mk.injEq] at h
  obtain ⟨hkp, hki, hkd, hp, hi, hd, hout, -, -, -, hinterval, -⟩ := h
  exact ⟨hkp, hki, hkd, hinterval, hp, hi, hd, hout⟩

/-- Settles O57: neither a new setpoint nor a control step writes the tuning, and the reset sequence is
excluded. -/
theorem tuningFixedAfterReset : Obligations.TuningFixedAfterReset := by
  intro s t h hrestart hloss
  obtain hc | ⟨v, hc⟩ | ⟨m, now, hc⟩ | ⟨hm, -⟩ := step_controller_cases h
  · exact SameTuning.of_controller hc
  · exact SameTuning.of_controller (s := storeSetpoint v s) hc
  · exact SameTuning.of_controller (s := (controlStep m now s).2) hc
  · exact absurd hm (not_or.2 ⟨hrestart, hloss⟩)

/-! ## The memory of the control law (R163, R164) -/

namespace State.LawInv

variable {s t : State}

/-- The invariant speaks of the controller's registers alone. -/
theorem of_controller (hi : s.LawInv) (h : t.controller = s.controller) : t.LawInv := by
  have hlimit : t.iLimit = s.iLimit := congrArg Controller.iLimit h
  have hintegral : t.integral = s.integral := congrArg Controller.integral h
  have hprev : t.prevMeas = s.prevMeas := congrArg Controller.prevMeas h
  exact ⟨hlimit.trans hi.limit, hintegral ▸ hi.integral, hprev ▸ hi.prevMeas⟩

/-- A new setpoint leaves `+0.0` in the integral term (R155). -/
theorem storeSetpoint (hi : s.LawInv) (v : F32) : (Machine.storeSetpoint v s).LawInv :=
  ⟨hi.limit, .inr (Nat.zero_le _), hi.prevMeas⟩

/-- A control step leaves the law's new memory: a limited integral term, and a converted measurement. -/
theorem controlStep (hi : s.LawInv) (m : U16) (now : U64) : (Machine.controlStep m now s).2.LawInv where
  limit := hi.limit
  integral := defaultLaw_integral_bounded hi.limit
  prevMeas x hx := by
    obtain rfl : f32OfU16 m = x := Option.some.inj hx
    exact f32IsNaN_f32OfU16 m

/-- The reset sequence starts the law anew, whatever record it loads (R151). -/
theorem execReset (h : Machine.execReset s = .next t) : t.LawInv := by
  cases h
  exact ⟨by simp [newController], by simp [newController, f32Mag], by simp [newController]⟩

end State.LawInv

/-- Settles O52: by the four things a step can do to the controller. -/
theorem stepKeepsLawInv : Obligations.StepKeepsLawInv := by
  intro s t hi h
  obtain hc | ⟨v, hc⟩ | ⟨m, now, hc⟩ | ⟨-, hreset⟩ := step_controller_cases h
  · exact hi.of_controller hc
  · exact (hi.storeSetpoint v).of_controller hc
  · exact (hi.controlStep m now).of_controller hc
  · exact .execReset hreset

end Sys2Proof.Machine
end

section
/-! SUPPORT. The commands of the serial protocol (43_command R194 to R200): the result of the execute part
and of each response step of a live block. -/

namespace Sys2Proof.Machine

/-! ## The checks of the parameters (R205, R253) -/

theorem pwmOk_iff {period width : U16} :
    pwmOk period width = true ↔ period.toNat ≠ 0 ∧ width.toNat ≤ period.toNat := by
  simp [pwmOk, BitVec.ule, BitVec.toNat_eq]

/-- The response of SET_PWM (R91): the opcode, or its complement. -/
theorem respSetPwm_eq (period width : U16) :
    respSetPwm period width =
      [if period.toNat ≠ 0 ∧ width.toNat ≤ period.toNat then 0x03#8 else 0xFC#8] := by
  simp only [respSetPwm, pwmOk_iff]
  split <;> rfl

theorem enableValue_eq (en : Byte) : (en == 1#8) = decide (en.toNat = 1) := by
  rw [Bool.eq_iff_iff, beq_iff_eq, decide_eq_true_iff, BitVec.toNat_eq]
  rfl

section Live

variable {s : State}

/-! ## The execute parts (R196 to R200) -/

theorem exec_hvEnable_of_execute {en : Byte} (hf : s.faulted = false) (hd : s.ds = .execute)
    (hen : en.toNat ≤ 1) :
    exec (.hvEnable en) s =
      .next
        { s with
          hvEnabled := decide (en.toNat = 1)
          trace := s.trace ++ [.setHv (decide (en.toNat = 1))]
          rsi := 0
          ds := .respond } := by
  have hin : ¬(1#8).ult en = true := by simpa [BitVec.ult] using hen
  rw [exec, execHvEnable, commandStep_execute hf hd, if_neg hin, enableValue_eq]
  rfl

theorem exec_hvEnable_of_badValue {en : Byte} (hf : s.faulted = false) (hd : s.ds = .execute)
    (hen : 2 ≤ en.toNat) :
    exec (.hvEnable en) s = .next { s with faulted := true, faultCause := .badEnableValue } := by
  have hout : (1#8).ult en = true := decide_eq_true hen
  rw [exec, execHvEnable, commandStep_execute hf hd, if_pos hout, raiseFatal, fatal_of_live _ hf]

theorem exec_getMeas_of_execute (hf : s.faulted = false) (hd : s.ds = .execute) :
    exec .getMeas s = .next { s with rsi := 0, ds := .respond } := commandStep_execute hf hd

theorem exec_firePulse_of_execute (duration : U16) (hf : s.faulted = false) (hd : s.ds = .execute) :
    exec (.firePulse duration) s =
      .next { s with trace := s.trace ++ [.firePulse duration], rsi := 0, ds := .respond } := by
  rw [exec, execFirePulse, commandStep_execute hf hd]
  rfl

theorem exec_setPwm_of_accepted {period width : U16} (hf : s.faulted = false) (hd : s.ds = .execute)
    (hok : period.toNat ≠ 0 ∧ width.toNat ≤ period.toNat) :
    exec (.setPwm period width) s =
      .next
        { s with
          pwmPeriod := period
          pwmWidth := width
          trace := s.trace ++ [.setPwm period width]
          rsi := 0
          ds := .respond } := by
  rw [exec, execSetPwm, commandStep_execute hf hd, if_pos (pwmOk_iff.mpr hok)]
  rfl

theorem exec_setPwm_of_rejected {period width : U16} (hf : s.faulted = false) (hd : s.ds = .execute)
    (hbad : ¬(period.toNat ≠ 0 ∧ width.toNat ≤ period.toNat)) :
    exec (.setPwm period width) s = .next { s with rsi := 0, ds := .respond } := by
  rw [exec, execSetPwm, commandStep_execute hf hd, if_neg (mt pwmOk_iff.mp hbad)]
  rfl

theorem exec_undefined_of_live (op : Byte) (hf : s.faulted = false) :
    exec (.undefined op) s =
      .next { s with op := op, plc := 0, faulted := true, faultCause := .unknownOpcode } :=
  (whenLive_of_live _ hf).trans
    (congrArg Host.Outcome.next (fatal_of_live _ (s := { s with op := op, plc := 0 }) hf))

/-! ## The response steps (R195) -/

theorem respondByte_of_last {resp : List Byte} {n : Nat} {b : Byte} (hr : s.rsi = n)
    (hb : resp[n]? = some b) (hl : n + 1 = resp.length) :
    respondByte resp s =
      .next
        { s with
          trace := s.trace ++ [.tx b]
          rsi := n + 1
          ds := .waitOpcode
          mlp := .p4Supervise } := by
  subst hr
  rw [respondByte, hb]
  exact if_pos hl

theorem respondByte_of_more {resp : List Byte} {n : Nat} {b : Byte} (hr : s.rsi = n)
    (hb : resp[n]? = some b) (hl : n + 1 ≠ resp.length) :
    respondByte resp s = .next { s with trace := s.trace ++ [.tx b], rsi := n + 1 } := by
  subst hr
  rw [respondByte, hb]
  exact if_neg hl

theorem exec_hvEnable_of_respond (en : Byte) (hf : s.faulted = false) (hd : s.ds = .respond)
    (hr : s.rsi = 0) :
    exec (.hvEnable en) s =
      .next
        { s with trace := s.trace ++ [.tx 0x01#8], rsi := 1, ds := .waitOpcode, mlp := .p4Supervise } := by
  rw [exec, execHvEnable, commandStep_respond hf hd]
  exact respondByte_of_last hr rfl rfl

theorem exec_getMeas_of_respondHigh (hf : s.faulted = false) (hd : s.ds = .respond) (hr : s.rsi = 0) :
    exec .getMeas s = .next { s with trace := s.trace ++ [.tx (hi8 s.meas)], rsi := 1 } := by
  rw [exec, execGetMeas, commandStep_respond hf hd]
  exact respondByte_of_more hr rfl (by simp [respGetMeas])

theorem exec_getMeas_of_respondLow (hf : s.faulted = false) (hd : s.ds = .respond) (hr : s.rsi = 1) :
    exec .getMeas s =
      .next
        { s with
          trace := s.trace ++ [.tx (lo8 s.meas)]
          rsi := 2
          ds := .waitOpcode
          mlp := .p4Supervise } := by
  rw [exec, execGetMeas, commandStep_respond hf hd]
  exact respondByte_of_last hr rfl rfl

theorem exec_setPwm_of_respond (period width : U16) (hf : s.faulted = false) (hd : s.ds = .respond)
    (hr : s.rsi = 0) :
    exec (.setPwm period width) s =
      .next
        { s with
          trace := s.trace ++
            [.tx (if period.toNat ≠ 0 ∧ width.toNat ≤ period.toNat then 0x03#8 else 0xFC#8)]
          rsi := 1
          ds := .waitOpcode
          mlp := .p4Supervise } := by
  rw [exec, execSetPwm, commandStep_respond hf hd, respSetPwm_eq]
  exact respondByte_of_last hr rfl rfl

/-- Accepted parameters are answered with the opcode. -/
theorem exec_setPwm_of_ack {period width : U16} (hf : s.faulted = false) (hd : s.ds = .respond)
    (hr : s.rsi = 0) (hok : period.toNat ≠ 0 ∧ width.toNat ≤ period.toNat) :
    exec (.setPwm period width) s =
      .next
        { s with trace := s.trace ++ [.tx 0x03#8], rsi := 1, ds := .waitOpcode, mlp := .p4Supervise } := by
  rw [exec_setPwm_of_respond period width hf hd hr, if_pos hok]

/-- Rejected parameters are answered with the complement of the opcode (R91). -/
theorem exec_setPwm_of_nack {period width : U16} (hf : s.faulted = false) (hd : s.ds = .respond)
    (hr : s.rsi = 0) (hbad : ¬(period.toNat ≠ 0 ∧ width.toNat ≤ period.toNat)) :
    exec (.setPwm period width) s =
      .next
        { s with trace := s.trace ++ [.tx 0xFC#8], rsi := 1, ds := .waitOpcode, mlp := .p4Supervise } := by
  rw [exec_setPwm_of_respond period width hf hd hr, if_neg hbad]

theorem exec_firePulse_of_respond (duration : U16) (hf : s.faulted = false) (hd : s.ds = .respond)
    (hr : s.rsi = 0) :
    exec (.firePulse duration) s =
      .next
        { s with trace := s.trace ++ [.tx 0x04#8], rsi := 1, ds := .waitOpcode, mlp := .p4Supervise } := by
  rw [exec, execFirePulse, commandStep_respond hf hd]
  exact respondByte_of_last hr rfl rfl

end Live

/-- Settles O5: an enable byte of 0 or 1 passes the check. -/
theorem hvEnableExecutes : Obligations.HvEnableExecutes := fun _ _ => exec_hvEnable_of_execute

/-- Settles O7: neither execute part has a check. -/
theorem getMeasAndFirePulseExecute : Obligations.GetMeasAndFirePulseExecute := fun duration _ hf hd =>
  ⟨exec_getMeas_of_execute hf hd, exec_firePulse_of_execute duration hf hd⟩

/-- Settles O8: by the parameter check of R205. -/
theorem setPwmExecutes : Obligations.SetPwmExecutes := by
  intro period width s hf hd
  split
  · next hok => exact exec_setPwm_of_accepted hf hd hok
  · next hbad => exact exec_setPwm_of_rejected hf hd hbad

/-- Settles O9: the fatal condition of a live block sets both latches. -/
theorem undefinedOpcodeFatal : Obligations.UndefinedOpcodeFatal := fun op _ => exec_undefined_of_live op

/-- Settles O10: one response step for each byte of a response. -/
theorem responseBytes : Obligations.ResponseBytes := by
  intro s hf hd
  rw [← hi8_eq_extractLsb', ← lo8_eq_extractLsb']
  exact ⟨fun hr en => exec_hvEnable_of_respond en hf hd hr, exec_getMeas_of_respondHigh hf hd,
    exec_getMeas_of_respondLow hf hd, fun hr period width => exec_setPwm_of_respond period width hf hd hr,
    fun hr duration => exec_firePulse_of_respond duration hf hd hr⟩

end Sys2Proof.Machine
end

section
/-! SUPPORT. The steps of ML in P3 (43_command R191 to R195, R202): the opcode fetch, the payload read, and the
step of the command in the latches. -/

namespace Sys2Proof.Machine

theorem definedOpcode_eq_true_iff {op : Byte} :
    definedOpcode op = true ↔ 1 ≤ op.toNat ∧ op.toNat ≤ 4 := by
  rw [← Bool.not_eq_false, definedOpcode_eq_false_iff]
  bv_omega

/-- Of the four commands only GET_MEAS has no payload (R87). -/
theorem npl_eq_zero_iff {op : Byte} (hop : definedOpcode op = true) : npl op = 0 ↔ op.toNat = 2 := by
  simp only [definedOpcode, Bool.or_eq_true, beq_iff_eq, or_assoc] at hop
  obtain rfl | rfl | rfl | rfl := hop <;> decide

theorem Payload.set_eq (pl : Payload) (i : Nat) (b : Byte) :
    pl.set i b =
      { b0 := if i = 0 then b else pl.b0
        b1 := if i = 1 then b else pl.b1
        b2 := if i = 2 then b else pl.b2
        b3 := if i = 3 then b else pl.b3 } := by
  match i with
  | 0 | 1 | 2 | 3 => rfl
  | _ + 4 => simp [Payload.set]

/-- A frame of which `n` payload bytes are in the latches is executed when they are all there (R192, R193). -/
def frameState (op : Byte) (n : Nat) : DispatchState := if n = npl op then .execute else .readPayload

section P3

variable {s : State} {p : Ports} {later : List Move} {b : Byte} {rest : List Byte}

theorem fetchOpcode_of_defined (hop : definedOpcode b = true) :
    fetchOpcode b s = .next { s with op := b, plc := 0, ds := frameState b 0 } := by
  simp [fetchOpcode, hop, frameState, eq_comm]

theorem fetchOpcode_of_undefined (hop : definedOpcode b = false) :
    fetchOpcode b s = exec (.undefined b) s := by
  simp [fetchOpcode, hop]

theorem dispatchPhase_of_noCommand (hd : s.ds = .waitOpcode) (hq : s.q = []) :
    dispatchPhase s = .next { s with mlp := .p4Supervise } := by
  rw [dispatchPhase, qPop_eq_none.mpr hq, hd]

theorem dispatchPhase_of_opcode (hd : s.ds = .waitOpcode) (hq : s.q = b :: rest) :
    dispatchPhase s = fetchOpcode b { s with q := rest } := by
  rw [dispatchPhase, qPop_cons hq, hd]

theorem dispatchPhase_of_held (hd : s.ds = .readPayload) (hq : s.q = []) : dispatchPhase s = .next s := by
  rw [dispatchPhase, qPop_eq_none.mpr hq, hd]

theorem dispatchPhase_of_payload (hd : s.ds = .readPayload) (hq : s.q = b :: rest) :
    dispatchPhase s = payloadByte b { s with q := rest } := by
  rw [dispatchPhase, qPop_cons hq, hd]

theorem dispatchPhase_of_latched (hd : s.ds = .execute ∨ s.ds = .respond) :
    dispatchPhase s = exec (latchedInstr s) s := by
  obtain hd | hd := hd <;> rw [dispatchPhase, hd]

theorem mlStep_of_p3 (hf : s.faulted = false) (hp : s.mlp = .p3Dispatch) : mlStep s = dispatchPhase s := by
  simp [mlStep, hf, hp]

theorem step_p3 (henv : s.env = ⟨.ml, p⟩ :: later) (hf : s.faulted = false) (hp : s.mlp = .p3Dispatch) :
    step s = dispatchPhase { s with env := later, ports := p } := by
  rw [step_ml henv]
  exact mlStep_of_p3 hf hp

theorem step_noCommand (henv : s.env = ⟨.ml, p⟩ :: later) (hf : s.faulted = false)
    (hp : s.mlp = .p3Dispatch) (hd : s.ds = .waitOpcode) (hq : s.q = []) :
    step s = .next { s with env := later, ports := p, mlp := .p4Supervise } := by
  rw [step_p3 henv hf hp]
  exact dispatchPhase_of_noCommand hd hq

theorem step_fetchOpcode (henv : s.env = ⟨.ml, p⟩ :: later) (hf : s.faulted = false)
    (hp : s.mlp = .p3Dispatch) (hd : s.ds = .waitOpcode) (hq : s.q = b :: rest) :
    step s = fetchOpcode b { s with env := later, ports := p, q := rest } := by
  rw [step_p3 henv hf hp]
  exact dispatchPhase_of_opcode hd hq

theorem step_payloadHeld (henv : s.env = ⟨.ml, p⟩ :: later) (hf : s.faulted = false)
    (hp : s.mlp = .p3Dispatch) (hd : s.ds = .readPayload) (hq : s.q = []) :
    step s = .next { s with env := later, ports := p } := by
  rw [step_p3 henv hf hp]
  exact dispatchPhase_of_held hd hq

theorem step_payloadByte (henv : s.env = ⟨.ml, p⟩ :: later) (hf : s.faulted = false)
    (hp : s.mlp = .p3Dispatch) (hd : s.ds = .readPayload) (hq : s.q = b :: rest) :
    step s =
      .next
        { s with
          env := later
          ports := p
          q := rest
          pl := s.pl.set s.plc b
          plc := s.plc + 1
          ds := frameState s.op (s.plc + 1) } := by
  rw [step_p3 henv hf hp]
  exact dispatchPhase_of_payload hd hq

theorem step_latched {i : Instr} (henv : s.env = ⟨.ml, p⟩ :: later) (hf : s.faulted = false)
    (hp : s.mlp = .p3Dispatch) (hd : s.ds = .execute ∨ s.ds = .respond) (hi : latchedInstr s = i) :
    step s = exec i { s with env := later, ports := p } := by
  rw [step_p3 henv hf hp, ← hi]
  exact dispatchPhase_of_latched hd

end P3

/-- Settles O39: the bytes in the latches decode to the command that ML runs. -/
theorem stepRunsLatchedCommand : Obligations.StepRunsLatchedCommand := by
  intro s p later i after henv hf hp hd hdec
  have hi : latchedInstr s = i := by
    rw [decode_latches] at hdec
    cases hdec
    rfl
  exact step_latched henv hf hp hd hi

/-- Settles O40: by the queue, and by whether the opcode is one of the four commands. -/
theorem stepFetchesOpcode : Obligations.StepFetchesOpcode := by
  intro s p later henv hf hp hd
  refine ⟨step_noCommand henv hf hp hd, fun b rest hq => ⟨fun hb => ?defined, fun hb => ?undefined⟩⟩
  case defined =>
    have hop := definedOpcode_eq_true_iff.mpr hb
    rw [step_fetchOpcode henv hf hp hd hq, fetchOpcode_of_defined hop]
    simp only [frameState, eq_comm (a := 0), npl_eq_zero_iff hop]
  case undefined =>
    rw [step_fetchOpcode henv hf hp hd hq, fetchOpcode_of_undefined (definedOpcode_of_toNat hb)]
    exact exec_undefined_of_live b hf

/-- Settles O41: by the queue. -/
theorem stepReadsPayload : Obligations.StepReadsPayload := by
  intro s p later henv hf hp hd
  refine ⟨step_payloadHeld henv hf hp hd, fun b rest hq _ => ?_⟩
  rw [step_payloadByte henv hf hp hd hq, Payload.set_eq]
  rfl

end Sys2Proof.Machine
end

section
/-! SUPPORT. The transactions of the four commands (43_command R190 to R199): ML takes a whole frame from the
queue, executes it and answers it. -/

namespace Sys2Proof

/-- R88: the value of a 16-bit operand. -/
theorem toNat_be16 (h l : Byte) : (be16 h l).toNat = h.toNat * 256 + l.toNat := by
  rw [be16_eq_append, BitVec.toNat_append, ← Nat.shiftLeft_add_eq_or_of_lt l.isLt, Nat.shiftLeft_eq]

theorem be16_eq_of_toNat {h l : Byte} {v : U16} (hv : v.toNat = h.toNat * 256 + l.toNat) : be16 h l = v :=
  BitVec.eq_of_toNat_eq ((toNat_be16 h l).trans hv.symm)

theorem toNat_hi8_lo8 (v : U16) : (hi8 v).toNat * 256 + (lo8 v).toNat = v.toNat := by
  rw [← toNat_be16, be16_hi8_lo8]

namespace Machine

theorem stepN_succ_eq_next {n : Nat} {s t u : State} (h : step s = .next t) (hrest : stepN n t = .next u) :
    stepN (n + 1) s = .next u := (stepN_succ_of_step h).trans hrest

theorem stepN_add {m n : Nat} {s t : State} (h : stepN m s = .next t) : stepN (m + n) s = stepN n t := by
  induction m generalizing s with
  | zero =>
    cases h
    rw [Nat.zero_add]
  | succ m ih =>
    obtain ⟨u, hu, hrest⟩ := andThen_eq_next.mp h
    rw [Nat.add_right_comm, stepN_succ_of_step hu, ih hrest]

/-! ## Taking a frame from the queue (R190 to R193) -/

/-- The payload latches once the bytes of a list are in them, the first one in latch `i`. -/
def Payload.fill (pl : Payload) (i : Nat) : List Byte → Payload
  | [] => pl
  | b :: bytes => (pl.set i b).fill (i + 1) bytes

/-- The choices in which ML moves with the levels of `ps` at the ports, one after another. -/
def mlMoves (ps : List Ports) : List Move := ps.map (⟨.ml, ·⟩)

/-- `s` once the frame `op :: payload` is in the latches, `rest` being queued behind it, with the levels `p` at
the ports and the choices `later` still to come. -/
def frameTaken (op : Byte) (payload rest : List Byte) (p : Ports) (later : List Move) (s : State) : State :=
  { s with
    env := later
    ports := p
    q := rest
    op := op
    pl := s.pl.fill 0 payload
    plc := npl op
    ds := .execute }

section Frame

variable {s : State} {payload rest : List Byte} {ps : List Ports} {later : List Move}

/-- The payload bytes still missing are taken, each in a step. -/
theorem stepN_readPayload (hf : s.faulted = false) (hp : s.mlp = .p3Dispatch)
    (hd : s.ds = frameState s.op s.plc) (hlen : s.plc + payload.length = npl s.op)
    (hq : s.q = payload ++ rest) (hps : ps.length = payload.length) (henv : s.env = mlMoves ps ++ later) :
    stepN payload.length s =
      .next
        { s with
          env := later
          ports := ps.getLastD s.ports
          q := rest
          pl := s.pl.fill s.plc payload
          plc := npl s.op
          ds := .execute } := by
  induction payload generalizing s ps with
  | nil =>
    obtain rfl := List.eq_nil_of_length_eq_zero hps
    have hplc : s.plc = npl s.op := hlen
    rw [frameState, if_pos hplc] at hd
    have henv : s.env = later := henv
    have hq : s.q = rest := hq
    rw [← henv, ← hq, ← hplc, ← hd]
    rfl
  | cons b payload ih =>
    obtain ⟨p, ps, rfl⟩ := List.exists_cons_of_length_eq_add_one hps
    rw [List.length_cons] at hlen
    have hmissing : s.plc ≠ npl s.op := by omega
    have hnext : s.plc + 1 + payload.length = npl s.op := by omega
    rw [frameState, if_neg hmissing] at hd
    rw [List.length_cons, stepN_succ_of_step (step_payloadByte henv hf hp hd hq), List.getLastD_cons]
    exact ih hf hp rfl hnext rfl (Nat.succ.inj hps) rfl

/-- A complete frame of one of the four commands is taken from the queue by a step for each of its bytes. -/
theorem stepN_takeFrame {op : Byte} {p : Ports} (hop : definedOpcode op = true) (hf : s.faulted = false)
    (hp : s.mlp = .p3Dispatch) (hd : s.ds = .waitOpcode) (hlen : payload.length = npl op)
    (hq : s.q = op :: payload ++ rest) (hps : ps.length = payload.length)
    (henv : s.env = mlMoves (p :: ps) ++ later) :
    stepN (payload.length + 1) s = .next (frameTaken op payload rest (ps.getLastD p) later s) := by
  have hfetch := (step_fetchOpcode henv hf hp hd hq).trans (fetchOpcode_of_defined hop)
  have hall : 0 + payload.length = npl op := by omega
  rw [stepN_succ_of_step hfetch]
  exact stepN_readPayload hf hp rfl hall rfl hps rfl

end Frame

/-! ## From the latched frame to the end of the transaction (R194, R195) -/

section Latched

variable {s : State} {p p' : Ports} {later : List Move}

/-- A step of the latched command, given what the command does once the choice is taken. -/
theorem step_of_exec_latched {i : Instr} {t : State} (henv : s.env = ⟨.ml, p⟩ :: later)
    (hf : s.faulted = false) (hp : s.mlp = .p3Dispatch) (hd : s.ds = .execute ∨ s.ds = .respond)
    (hi : latchedInstr s = i) (h : exec i { s with env := later, ports := p } = .next t) :
    step s = .next t := (step_latched henv hf hp hd hi).trans h

/-- HV_ENABLE: executed and echoed. -/
theorem stepN_hvEnable {en : Byte} (henv : s.env = ⟨.ml, p⟩ :: ⟨.ml, p'⟩ :: later)
    (hf : s.faulted = false) (hp : s.mlp = .p3Dispatch) (hd : s.ds = .execute)
    (hi : latchedInstr s = .hvEnable en) (hen : en.toNat ≤ 1) :
    stepN 2 s =
      .next
        { s with
          env := later
          ports := p'
          hvEnabled := decide (en.toNat = 1)
          trace := s.trace ++ [.setHv (decide (en.toNat = 1))] ++ [.tx 0x01#8]
          rsi := 1
          ds := .waitOpcode
          mlp := .p4Supervise } :=
  stepN_succ_eq_next
    (step_of_exec_latched henv hf hp (.inl hd) hi (exec_hvEnable_of_execute hf hd hen)) <|
  stepN_succ_eq_next
    (step_of_exec_latched rfl hf hp (.inr rfl) hi (exec_hvEnable_of_respond en hf rfl rfl)) rfl

/-- HV_ENABLE with another enable byte: fatal before any effect (R253). -/
theorem stepN_hvEnable_of_badValue {en : Byte} (henv : s.env = ⟨.ml, p⟩ :: later) (hf : s.faulted = false)
    (hp : s.mlp = .p3Dispatch) (hd : s.ds = .execute) (hi : latchedInstr s = .hvEnable en)
    (hen : 2 ≤ en.toNat) :
    stepN 1 s =
      .next { s with env := later, ports := p, faulted := true, faultCause := .badEnableValue } :=
  stepN_succ_eq_next
    (step_of_exec_latched henv hf hp (.inl hd) hi (exec_hvEnable_of_badValue hf hd hen)) rfl

/-- GET_MEAS: executed and answered with two bytes. -/
theorem stepN_getMeas {p'' : Ports} (henv : s.env = ⟨.ml, p⟩ :: ⟨.ml, p'⟩ :: ⟨.ml, p''⟩ :: later)
    (hf : s.faulted = false) (hp : s.mlp = .p3Dispatch) (hd : s.ds = .execute)
    (hi : latchedInstr s = .getMeas) :
    stepN 3 s =
      .next
        { s with
          env := later
          ports := p''
          trace := s.trace ++ [.tx (hi8 s.meas)] ++ [.tx (lo8 s.meas)]
          rsi := 2
          ds := .waitOpcode
          mlp := .p4Supervise } :=
  stepN_succ_eq_next
    (step_of_exec_latched henv hf hp (.inl hd) hi (exec_getMeas_of_execute hf hd)) <|
  stepN_succ_eq_next
    (step_of_exec_latched rfl hf hp (.inr rfl) hi (exec_getMeas_of_respondHigh hf rfl rfl)) <|
  stepN_succ_eq_next
    (step_of_exec_latched rfl hf hp (.inr rfl) hi (exec_getMeas_of_respondLow hf rfl rfl)) rfl

/-- SET_PWM with accepted parameters: executed and echoed. -/
theorem stepN_setPwm_of_accepted {period width : U16} (henv : s.env = ⟨.ml, p⟩ :: ⟨.ml, p'⟩ :: later)
    (hf : s.faulted = false) (hp : s.mlp = .p3Dispatch) (hd : s.ds = .execute)
    (hi : latchedInstr s = .setPwm period width)
    (hok : period.toNat ≠ 0 ∧ width.toNat ≤ period.toNat) :
    stepN 2 s =
      .next
        { s with
          env := later
          ports := p'
          pwmPeriod := period
          pwmWidth := width
          trace := s.trace ++ [.setPwm period width] ++ [.tx 0x03#8]
          rsi := 1
          ds := .waitOpcode
          mlp := .p4Supervise } :=
  stepN_succ_eq_next
    (step_of_exec_latched henv hf hp (.inl hd) hi (exec_setPwm_of_accepted hf hd hok)) <|
  stepN_succ_eq_next
    (step_of_exec_latched rfl hf hp (.inr rfl) hi (exec_setPwm_of_ack hf rfl rfl hok)) rfl

/-- SET_PWM with rejected parameters: without effect, and answered with the complement. -/
theorem stepN_setPwm_of_rejected {period width : U16} (henv : s.env = ⟨.ml, p⟩ :: ⟨.ml, p'⟩ :: later)
    (hf : s.faulted = false) (hp : s.mlp = .p3Dispatch) (hd : s.ds = .execute)
    (hi : latchedInstr s = .setPwm period width)
    (hbad : ¬(period.toNat ≠ 0 ∧ width.toNat ≤ period.toNat)) :
    stepN 2 s =
      .next
        { s with
          env := later
          ports := p'
          trace := s.trace ++ [.tx 0xFC#8]
          rsi := 1
          ds := .waitOpcode
          mlp := .p4Supervise } :=
  stepN_succ_eq_next
    (step_of_exec_latched henv hf hp (.inl hd) hi (exec_setPwm_of_rejected hf hd hbad)) <|
  stepN_succ_eq_next
    (step_of_exec_latched rfl hf hp (.inr rfl) hi (exec_setPwm_of_nack hf rfl rfl hbad)) rfl

/-- FIRE_PULSE: executed and echoed; a byte received in between goes to the queue. -/
theorem stepN_firePulse {duration : U16} {b : Byte} {p'' : Ports}
    (henv : s.env = ⟨.ml, p⟩ :: ⟨.rx b, p'⟩ :: ⟨.ml, p''⟩ :: later) (hf : s.faulted = false)
    (hp : s.mlp = .p3Dispatch) (hd : s.ds = .execute) (hi : latchedInstr s = .firePulse duration)
    (hroom : s.q.length ≠ Config.queueCapacity) :
    stepN 3 s =
      .next
        { s with
          env := later
          ports := p''
          q := s.q ++ [b]
          trace := s.trace ++ [.firePulse duration] ++ [.tx 0x04#8]
          rsi := 1
          ds := .waitOpcode
          mlp := .p4Supervise } :=
  stepN_succ_eq_next
    (step_of_exec_latched henv hf hp (.inl hd) hi (exec_firePulse_of_execute duration hf hd)) <|
  stepN_succ_eq_next ((step_rx rfl).trans (execRxEvent_of_room b hf hroom)) <|
  stepN_succ_eq_next
    (step_of_exec_latched rfl hf hp (.inr rfl) hi (exec_firePulse_of_respond duration hf rfl rfl)) rfl

end Latched

/-! ## The transactions (R196 to R199) -/

/-- Settles O46: once the frame is taken, an enable byte in range is executed and echoed, another is fatal. -/
theorem hvEnableTransaction : Obligations.HvEnableTransaction := by
  intro s en rest p1 p2 p3 p4 later henv hf hp hd hq
  have htake : stepN 2 s = .next (frameTaken 0x01#8 [en] rest p2 (⟨.ml, p3⟩ :: ⟨.ml, p4⟩ :: later) s) :=
    stepN_takeFrame (payload := [en]) (ps := [p2]) rfl hf hp hd rfl hq rfl henv
  refine ⟨fun hen => ?inRange, fun hen => ?badValue⟩
  case inRange =>
    exact ⟨_, (stepN_add htake).trans (stepN_hvEnable rfl hf hp rfl rfl hen), rfl, List.append_assoc ..,
      rfl, rfl, rfl, hf⟩
  case badValue =>
    exact ⟨_, (stepN_add htake).trans (stepN_hvEnable_of_badValue rfl hf hp rfl rfl hen), rfl, rfl, rfl,
      rfl, rfl⟩

/-- Settles O47: the two response bytes are the halves of the measurement. -/
theorem getMeasTransaction : Obligations.GetMeasTransaction := by
  intro s rest p1 p2 p3 p4 later henv hf hp hd hq
  have htake : stepN 1 s =
      .next (frameTaken 0x02#8 [] rest p1 (⟨.ml, p2⟩ :: ⟨.ml, p3⟩ :: ⟨.ml, p4⟩ :: later) s) :=
    stepN_takeFrame (payload := []) (ps := []) rfl hf hp hd rfl hq rfl henv
  exact ⟨_, hi8 s.meas, lo8 s.meas, (stepN_add htake).trans (stepN_getMeas rfl hf hp rfl rfl),
    List.append_assoc .., toNat_hi8_lo8 s.meas, rfl, rfl, rfl, rfl, hf⟩

/-- Settles O48: once the frame is taken, by the parameter check of R205. -/
theorem setPwmTransaction : Obligations.SetPwmTransaction := by
  intro s ph pl wh wl rest p1 p2 p3 p4 p5 p6 p7 later period width henv hf hp hd hq hperiod hwidth
  obtain rfl := be16_eq_of_toNat hperiod
  obtain rfl := be16_eq_of_toNat hwidth
  have htake : stepN 5 s =
      .next (frameTaken 0x03#8 [ph, pl, wh, wl] rest p5 (⟨.ml, p6⟩ :: ⟨.ml, p7⟩ :: later) s) :=
    stepN_takeFrame (payload := [ph, pl, wh, wl]) (ps := [p2, p3, p4, p5]) rfl hf hp hd rfl hq rfl henv
  by_cases hok : (be16 ph pl).toNat ≠ 0 ∧ (be16 wh wl).toNat ≤ (be16 ph pl).toNat
  case pos =>
    exact ⟨_, (stepN_add htake).trans (stepN_setPwm_of_accepted rfl hf hp rfl rfl hok), rfl, rfl, rfl, hf,
      fun _ => ⟨rfl, rfl, List.append_assoc ..⟩, fun hbad => absurd hok hbad⟩
  case neg =>
    exact ⟨_, (stepN_add htake).trans (stepN_setPwm_of_rejected rfl hf hp rfl rfl hok), rfl, rfl, rfl, hf,
      fun hok' => absurd hok' hok, fun _ => ⟨rfl, rfl, rfl⟩⟩

/-- Settles O49: the receive event comes between the pulse and its echo, and finds room in the queue. -/
theorem firePulseTransaction : Obligations.FirePulseTransaction := by
  intro s dh dl b rest p1 p2 p3 p4 p5 p6 later duration henv hf hp hd hq hroom hduration
  obtain rfl := be16_eq_of_toNat hduration
  have htake : stepN 3 s =
      .next (frameTaken 0x04#8 [dh, dl] rest p3 (⟨.ml, p4⟩ :: ⟨.rx b, p5⟩ :: ⟨.ml, p6⟩ :: later) s) :=
    stepN_takeFrame (payload := [dh, dl]) (ps := [p2, p3]) rfl hf hp hd rfl hq rfl henv
  exact ⟨_, (stepN_add htake).trans (stepN_firePulse rfl hf hp rfl rfl hroom.ne), List.append_assoc ..,
    rfl, rfl, rfl, hf⟩

end Machine
end Sys2Proof
end

section
/-! SUPPORT. The steps of ML outside P3 (44_supervisor_main_loop R233 to R241): the local requests of P0, the
sample of P1, the control step of P2, the indicators of P4, and an idle iteration made of one step of each
phase. -/

namespace Sys2Proof.Machine

/-! ## The local requests (R234, R240) -/

section Requests

variable {s : State}

/-- An offer outside P0, or during a persist, is no event (93 U14). -/
theorem takeRequest_notTaken (k : State → State) (hf : s.faulted = false)
    (h : s.mlp ≠ .p0Local ∨ s.nvsBusy = .erasedPendingProgram) : takeRequest s k = .next s := by
  have hno : ¬(inLocalPhase s && s.nvsBusy == .idle) = true := by
    rw [inLocalPhase, Bool.and_eq_true, beq_iff_eq, beq_iff_eq]
    rintro ⟨hp, hb⟩
    obtain hout | hpending := h
    · exact hout hp
    · cases hb.symm.trans hpending
  rw [takeRequest, whenLive_of_live _ hf, if_neg hno]

theorem execLopPersist_of_elsewhere (hf : s.faulted = false) (hp : s.mlp ≠ .p0Local) :
    execLopPersist s = .next s := by
  have hl : ¬inLocalPhase s = true := by simpa [inLocalPhase] using hp
  rw [execLopPersist, whenLive_of_live _ hf, if_neg hl]

theorem execLopPersist_of_not_erased {i : Nat} (hf : s.faulted = false) (hp : s.mlp = .p0Local)
    (hb : s.nvsBusy = .erasedPendingProgram) (h : nvsRead s.nvs i ≠ Config.erasedWord) :
    execLopPersist s = .refused .programNotErased := by
  have hl : inLocalPhase s = true := by simp [inLocalPhase, hp]
  rw [execLopPersist, whenLive_of_live _ hf, if_pos hl, writeRecordStep_of_not_erased _ hb h, andThen]

/-- The words of the record in use (42_pid R153, 30_encoding R92, R94). -/
theorem formatRecord_currentRecord (s : State) :
    formatRecord (currentRecord s) =
      ⟨0x444E4A4E#32, s.kp, s.ki, s.kd, s.interval.extractLsb' 32 32, s.interval.extractLsb' 0 32⟩ := by
  rw [formatRecord, intervalHi_eq_extract, intervalLo_eq_extract]
  rfl

theorem localPhase_of_noRequest (hb : s.nvsBusy = .idle) (hlop : s.ports.lop = none) :
    localPhase s = .next { s with mlp := .p1Sample } := by
  rw [localPhase, hb, hlop]

theorem localPhase_of_setSetpoint {v : F32} (hb : s.nvsBusy = .idle)
    (hlop : s.ports.lop = some (.setSetpoint v)) : localPhase s = exec (.lopSetSetpoint v) s := by
  rw [localPhase, hb, hlop]

theorem localPhase_of_getSetpoint (hb : s.nvsBusy = .idle) (hlop : s.ports.lop = some .getSetpoint) :
    localPhase s = exec .lopGetSetpoint s := by
  rw [localPhase, hb, hlop]

end Requests

/-! ## The control step of P2 (R236) -/

section Control

variable {s : State}

theorem controlPhase_of_due (h : needsControl s.ports.now s = true) :
    controlPhase s =
      .next
        { emit (.ctlOut (controlStep s.meas s.ports.now s).1) (controlStep s.meas s.ports.now s).2 with
          mlp := .p3Dispatch } := by
  rw [controlPhase, if_pos h]

theorem controlPhase_of_notDue (h : needsControl s.ports.now s = false) :
    controlPhase s = .next { s with mlp := .p3Dispatch } := by
  rw [controlPhase, h]
  rfl

end Control

/-! ## The indicators (R231, R232, R238) -/

section Indicators

variable {s : State}

theorem danger_iff : danger s = true ↔ 67 ≤ s.meas.toNat ∨ s.hvEnabled = true := by
  simp [danger, Config.dangerThreshold, BitVec.ule]

theorem exec_supEval_of_live (hf : s.faulted = false) :
    exec .supEval s =
      .next
        { s with
          indHazard := danger s
          indSafe := !danger s
          trace := s.trace ++ [.setIndicator .hazard (danger s), .setIndicator .safe (!danger s)] } := by
  rw [exec, execSupEval, whenLive_of_live _ hf, emit, emit]
  simp only [List.append_assoc, List.singleton_append]

theorem supervisePhase_of_live (hf : s.faulted = false) :
    supervisePhase s =
      .next
        { s with
          indHazard := danger s
          indSafe := !danger s
          trace := s.trace ++ [.setIndicator .hazard (danger s), .setIndicator .safe (!danger s)]
          mlp := .p0Local } := by
  rw [supervisePhase, exec_supEval_of_live hf, andThen_next]

end Indicators

/-! ## The steps of the block outside P3 (R233) -/

section Steps

variable {s : State} {p : Ports} {later : List Move}

theorem mlStep_of_p1 (hf : s.faulted = false) (hp : s.mlp = .p1Sample) : mlStep s = samplePhase s := by
  simp [mlStep, hf, hp]

theorem mlStep_of_p2 (hf : s.faulted = false) (hp : s.mlp = .p2Control) : mlStep s = controlPhase s := by
  simp [mlStep, hf, hp]

theorem mlStep_of_p4 (hf : s.faulted = false) (hp : s.mlp = .p4Supervise) :
    mlStep s = supervisePhase s := by
  simp [mlStep, hf, hp]

theorem step_p0 (henv : s.env = ⟨.ml, p⟩ :: later) (hf : s.faulted = false) (hp : s.mlp = .p0Local) :
    step s = localPhase { s with env := later, ports := p } :=
  (step_ml henv).trans (mlStep_of_p0 hf hp)

theorem step_p1 (henv : s.env = ⟨.ml, p⟩ :: later) (hf : s.faulted = false) (hp : s.mlp = .p1Sample) :
    step s = .next { s with env := later, ports := p, meas := p.adc, mlp := .p2Control } :=
  (step_ml henv).trans (mlStep_of_p1 hf hp)

theorem step_p2 (henv : s.env = ⟨.ml, p⟩ :: later) (hf : s.faulted = false) (hp : s.mlp = .p2Control) :
    step s = controlPhase { s with env := later, ports := p } :=
  (step_ml henv).trans (mlStep_of_p2 hf hp)

theorem step_p4 (henv : s.env = ⟨.ml, p⟩ :: later) (hf : s.faulted = false) (hp : s.mlp = .p4Supervise) :
    step s = supervisePhase { s with env := later, ports := p } :=
  (step_ml henv).trans (mlStep_of_p4 hf hp)

theorem step_noRequest (henv : s.env = ⟨.ml, p⟩ :: later) (hf : s.faulted = false)
    (hp : s.mlp = .p0Local) (hb : s.nvsBusy = .idle) (hlop : p.lop = none) :
    step s = .next { s with env := later, ports := p, mlp := .p1Sample } :=
  (step_p0 henv hf hp).trans (localPhase_of_noRequest hb hlop)

theorem step_noControl (henv : s.env = ⟨.ml, p⟩ :: later) (hf : s.faulted = false)
    (hp : s.mlp = .p2Control) (h : needsControl p.now { s with ports := p } = false) :
    step s = .next { s with env := later, ports := p, mlp := .p3Dispatch } :=
  (step_p2 henv hf hp).trans (controlPhase_of_notDue h)

/-- The step of P2 is PID_STEP with the latched measurement and the timer value of the test (decision D31),
except that the command is emitted and not returned. -/
theorem step_control (henv : s.env = ⟨.ml, p⟩ :: later) (hf : s.faulted = false)
    (hp : s.mlp = .p2Control) (h : needsControl p.now { s with ports := p } = true) :
    ∃ u out, exec (.pidStep s.meas p.now) { s with env := later, ports := p } = .next u
      ∧ u.ret = .output out
      ∧ step s = .next
        { u with ret := s.ret, trace := s.trace ++ [.ctlOut out], mlp := .p3Dispatch } :=
  ⟨_, _, exec_pidStep_of_live s.meas p.now hf, rfl, (step_p2 henv hf hp).trans (controlPhase_of_due h)⟩

theorem step_supervise (henv : s.env = ⟨.ml, p⟩ :: later) (hf : s.faulted = false)
    (hp : s.mlp = .p4Supervise) :
    step s =
      .next
        { s with
          env := later
          ports := p
          indHazard := danger s
          indSafe := !danger s
          trace := s.trace ++ [.setIndicator .hazard (danger s), .setIndicator .safe (!danger s)]
          mlp := .p0Local } :=
  (step_p4 henv hf hp).trans (supervisePhase_of_live hf)

end Steps

/-- Settles O36: each request by whether it is taken, then the step of P0 by what is under way and offered. -/
theorem localRequests : Obligations.LocalRequests := by
  intro v s hf
  refine ⟨fun hp hb => ?taken, fun hp hb hn => ?program, fun h => ?notTaken,
    fun hp => execLopPersist_of_elsewhere hf hp, fun _ hp hb h => execLopPersist_of_not_erased hf hp hb h,
    fun p later henv hp => ?stepOfML⟩
  case taken =>
    exact ⟨takeRequest_taken _ hf hp hb, takeRequest_taken _ hf hp hb, execLopPersist_of_idle hf hp hb⟩
  case program =>
    exact ⟨_, _, execLopPersist_of_pending hf hp hb hn, formatRecord_currentRecord s,
      recordWords_nvsProgram _, fun _ hi => nvsRead_programmed_above _ hi,
      readRecord_formatRecord (currentRecord s)⟩
  case notTaken => exact ⟨takeRequest_notTaken _ hf h, takeRequest_notTaken _ hf h⟩
  case stepOfML =>
    rw [step_p0 henv hf hp]
    exact ⟨fun hb => ⟨fun hlop => localPhase_of_noRequest hb hlop,
      fun hlop => localPhase_of_setSetpoint hb hlop, fun hlop => localPhase_of_getSetpoint hb hlop,
      fun hlop => localPhase_of_offer hb hlop⟩, fun hb => localPhase_of_pending hb⟩

/-- Settles O44: one step of each phase, from P0 back to P0. -/
theorem idleIteration : Obligations.IdleIteration := by
  intro s p0 p1 p2 p3 p4 later henv hf hp hb hd hq hlop hcontrol
  refine ⟨danger { s with meas := p1.adc }, danger_iff, ?_⟩
  rw [hp]
  exact stepN_succ_eq_next (step_noRequest henv hf hp hb hlop) <|
    stepN_succ_eq_next (step_p1 rfl hf rfl) <|
    stepN_succ_eq_next (step_noControl rfl hf rfl hcontrol) <|
    stepN_succ_eq_next (step_noCommand rfl hf rfl hd hq) <|
    stepN_succ_eq_next (step_supervise rfl hf rfl) rfl

/-- Settles O35: SUP_EVAL, alone and as phase P4. -/
theorem supEvalResult : Obligations.SupEvalResult := fun s hf =>
  ⟨danger s, danger_iff, exec_supEval_of_live hf, fun _ _ henv hp => step_supervise henv hf hp⟩

/-- Settles O42: phase P1. -/
theorem stepSamples : Obligations.StepSamples := fun _ _ _ => step_p1

/-- Settles O43: phase P2, by whether control is due. -/
theorem stepControls : Obligations.StepControls := fun _ _ _ henv hf hp =>
  ⟨step_noControl henv hf hp, step_control henv hf hp⟩

end Sys2Proof.Machine
end

section
/-! SUPPORT. Fatal conditions and the Faulted state (60_exceptions R253 to R256): what raises the fault of a bad
enable byte, what no longer happens once faulted, and the run of blinks that remains. -/

namespace Sys2Proof.Machine

/-- Settles O6: the check stands before every effect of HV_ENABLE. -/
theorem hvEnableBadValueFatal : Obligations.HvEnableBadValueFatal := fun _ _ => exec_hvEnable_of_badValue

/-! ## The instructions (R254) -/

/-- Every instruction but RESET is performed under the guard that no rule is enabled while faulted. -/
theorem exec_eq_whenLive {i : Instr} (hi : i ≠ .reset) (s : State) : ∃ k, exec i s = whenLive s k := by
  cases i
  case reset => exact absurd rfl hi
  all_goals exact ⟨_, rfl⟩

/-- Settles O54: the guard answers the state as it is. -/
theorem faultedFreezesInstructions : Obligations.FaultedFreezesInstructions := by
  intro i s hf hi
  obtain ⟨k, hk⟩ := exec_eq_whenLive hi s
  rw [hk, whenLive_of_faulted k hf]

/-! ## The steps of a faulted block (R118, R255) -/

/-- The state once a choice is taken: what is left of the script, and the levels at the ports. -/
def State.withScript (later : List Move) (p : Ports) (s : State) : State := { s with env := later, ports := p }

section Step

variable {s : State} {p : Ports} {later : List Move}

theorem step_ml_of_faulted (henv : s.env = ⟨.ml, p⟩ :: later) (hf : s.faulted = true) :
    step s = .next (blink (s.withScript later p)) := (step_ml henv).trans (mlStep_faulted hf)

theorem step_rx_of_faulted {b : Byte} (henv : s.env = ⟨.rx b, p⟩ :: later) (hf : s.faulted = true) :
    step s = .next (s.withScript later p) := (step_rx henv).trans (execRxEvent_of_faulted b hf)

end Step

theorem blinkValue_of_some {s : State} {v : Bool} (h : s.blinkNext = some v) : blinkValue s = v := by
  rw [blinkValue, h]

/-- What a blink writes; `draws` counts the free value of the first one. -/
theorem exists_blink_eq (s : State) :
    ∃ draws, blink s =
      { s with
        indHazard := blinkValue s
        trace := s.trace ++ [.setIndicator .hazard (blinkValue s)]
        draws := draws
        blinkNext := some (!blinkValue s) } := ⟨_, rfl⟩

theorem blinkValue_blink (s : State) : blinkValue (blink s) = !blinkValue s := rfl

/-! ## Blinks one after the other -/

/-- Each blink turns the value of the next one over. -/
theorem blinkValue_iterate_blink (k : Nat) (s : State) :
    blinkValue (blink^[k] s) = not^[k] (blinkValue s) :=
  Function.Semiconj.iterate_right (f := blinkValue) blinkValue_blink k s

/-- The events of `k` blinks, the first of which drives `v`. -/
def blinkEvents (v : Bool) (k : Nat) : List Event :=
  (List.range k).map fun i => .setIndicator .hazard (not^[i] v)

theorem blinkEvents_succ (v : Bool) (k : Nat) :
    blinkEvents v (k + 1) = blinkEvents v k ++ [.setIndicator .hazard (not^[k] v)] := by
  simp [blinkEvents, List.range_succ]

@[simp] theorem length_blinkEvents (v : Bool) (k : Nat) : (blinkEvents v k).length = k := by
  simp [blinkEvents]

theorem eq_setIndicator_of_mem_blinkEvents {v : Bool} {k : Nat} {e : Event} (h : e ∈ blinkEvents v k) :
    ∃ on, e = .setIndicator .hazard on := by
  obtain ⟨i, -, rfl⟩ := List.mem_map.mp h
  exact ⟨_, rfl⟩

theorem eq_of_getElem?_blinkEvents {v w : Bool} {k i : Nat}
    (h : (blinkEvents v k)[i]? = some (.setIndicator .hazard w)) : w = not^[i] v := by
  obtain ⟨hi, he⟩ := List.getElem?_eq_some_iff.mp h
  simpa [blinkEvents, eq_comm] using he

/-- No two consecutive blinks drive the same value. -/
theorem blinkEvents_alternate {v a b : Bool} {k i : Nat}
    (ha : (blinkEvents v k)[i]? = some (.setIndicator .hazard a))
    (hb : (blinkEvents v k)[i + 1]? = some (.setIndicator .hazard b)) : b = !a := by
  rw [eq_of_getElem?_blinkEvents hb, eq_of_getElem?_blinkEvents ha, Function.iterate_succ_apply']

/-- Blinks change the hazard indicator, the trace and the model's blink counters. -/
theorem exists_iterate_blink_eq (k : Nat) (s : State) :
    ∃ (on : Bool) (draws : Nat) (next : Option Bool),
      blink^[k] s =
        { s with
          indHazard := on
          trace := s.trace ++ blinkEvents (blinkValue s) k
          draws := draws
          blinkNext := next } := by
  induction k with
  | zero => exact ⟨s.indHazard, s.draws, s.blinkNext, by simp [blinkEvents]⟩
  | succ k ih =>
    obtain ⟨_, _, _, hk⟩ := ih
    obtain ⟨draws, hblink⟩ := exists_blink_eq (blink^[k] s)
    rw [Function.iterate_succ_apply', hblink, blinkValue_iterate_blink, hk, blinkEvents_succ,
      ← List.append_assoc]
    exact ⟨_, _, _, rfl⟩

theorem iterate_blink_indHazard_of_no_event {v : Bool} {k : Nat} {s : State} (h : blinkEvents v k = []) :
    (blink^[k] s).indHazard = s.indHazard := by
  obtain rfl : k = 0 := by simpa using congrArg List.length h
  rfl

/-- The hazard indicator holds the value of the last blink. -/
theorem iterate_blink_indHazard {k : Nat} {s : State} {v : Bool}
    (h : (blinkEvents (blinkValue s) k).getLast? = some (.setIndicator .hazard v)) :
    (blink^[k] s).indHazard = v := by
  cases k with
  | zero => cases h
  | succ k =>
    rw [blinkEvents_succ, List.getLast?_concat] at h
    rw [Function.iterate_succ_apply', blink_indHazard, blinkValue_iterate_blink]
    simpa using h

theorem iterate_blink_withScript (k : Nat) (env : List Move) (p : Ports) (s : State) :
    blink^[k] (s.withScript env p) = (blink^[k] s).withScript env p :=
  have hblink : Function.Semiconj (State.withScript env p) blink blink := fun _ => rfl
  (hblink.iterate_right k s).symm

/-! ## Runs of RX and ML from a faulted state -/

/-- How many of the moves are ML's. -/
def mlCount (ms : List Move) : Nat := (ms.filter fun m => m.mover == .ml).length

/-- A faulted block blinks once for each move of ML, and does nothing else (R255). -/
theorem stepN_of_faulted {ms later : List Move} {s : State} (hf : s.faulted = true)
    (henv : s.env = ms ++ later) (hms : ∀ m ∈ ms, agentMoves m) :
    stepN ms.length s =
      .next ((blink^[mlCount ms] s).withScript later ((ms.map Move.ports).getLastD s.ports)) := by
  induction ms generalizing s with
  | nil =>
    obtain rfl : s.env = later := henv
    rfl
  | cons m ms ih =>
    obtain ⟨hm, hrest⟩ := List.forall_mem_cons.mp hms
    obtain ⟨mover, p⟩ := m
    rw [List.length_cons, List.map_cons, List.getLastD_cons]
    obtain rfl | ⟨b, rfl⟩ : mover = .ml ∨ ∃ b, mover = .rx b := hm
    · have hrun := ih (s := blink (s.withScript (ms ++ later) p)) hf rfl hrest
      rw [← Function.iterate_succ_apply, iterate_blink_withScript] at hrun
      exact stepN_succ_eq_next (step_ml_of_faulted henv hf) hrun
    · have hrun := ih (s := s.withScript (ms ++ later) p) hf rfl hrest
      rw [iterate_blink_withScript] at hrun
      exact stepN_succ_eq_next (step_rx_of_faulted henv hf) hrun

/-- Settles O55: a step of ML is one blink, and `n` steps are the blinks of ML's moves among the first `n`. -/
theorem faultedForever : Obligations.FaultedForever := by
  refine ⟨fun s p later hf henv => ?step, fun n s hf hn hagents => ?run⟩
  case step =>
    exact ⟨blinkValue s, _, fun _ hw => blinkValue_of_some hw, step_ml_of_faulted henv hf⟩
  case run =>
    have hlen : (s.env.take n).length = n := List.length_take_of_le hn
    have hrun := stepN_of_faulted hf (List.take_append_drop n s.env).symm
      fun m hm => hagents m (List.mem_of_mem_take hm)
    rw [hlen] at hrun
    obtain ⟨on, draws, next, hk⟩ := exists_iterate_blink_eq (mlCount (s.env.take n)) s
    refine ⟨_, blinkEvents (blinkValue s) (mlCount (s.env.take n)), hrun, ?_,
      fun e => eq_setIndicator_of_mem_blinkEvents, length_blinkEvents ..,
      iterate_blink_indHazard_of_no_event, fun v => iterate_blink_indHazard,
      fun k v w => blinkEvents_alternate⟩
    rw [hk]
    rfl

end Sys2Proof.Machine
end

section
/-! SUPPORT. The reset sequence from any state (70_reset R290, R291), and that the block always has a next state
(70_reset R304): of its operations only a program pass can be refused, on a sector that is not erased (93 U8),
and a persist under way has erased the sector (10_state R36). -/

namespace Sys2Proof.Machine

/-! ## The reset sequence (R290, R291) -/

/-- Settles O37: the registers by whether the sector holds a valid record, the moves by the script. -/
theorem resetSequence : Obligations.ResetSequence := by
  refine ⟨fun s => ?registers, fun s p later henv => ?moves⟩
  case registers =>
    cases hr : readRecord s.nvs with
    | none => exact ⟨_, execReset_of_none hr, by simp [Config.limit]⟩
    | some r => exact ⟨_, execReset_of_some hr, by simp [Config.limit]⟩
  case moves =>
    obtain hrestart | hloss := henv
    · exact blockStep_scripted hrestart
    · exact step_powerLoss hloss

/-! ## Results that are a next state -/

/-- The result is a next state: neither a fault nor a refusal. -/
def Answers (r : Result) : Prop := ∃ t, r = .next t

theorem answers_next (t : State) : Answers (.next t) := ⟨t, rfl⟩

theorem whenLive_answers {k : Result} (s : State) (hk : Answers k) : Answers (whenLive s k) := by
  cases hf : s.faulted with
  | true => exact ⟨s, whenLive_of_faulted k hf⟩
  | false => rwa [whenLive_of_live k hf]

/-! ## The commands and the receive event -/

theorem respondByte_answers (resp : List Byte) (s : State) : Answers (respondByte resp s) := by
  unfold respondByte
  split
  · exact answers_next _
  · split <;> exact answers_next _

/-- A command can end in nothing its execute part does not end in. -/
theorem commandStep_answers {ex : State → Result} (resp : List Byte) (s : State)
    (hex : Answers (ex s)) : Answers (commandStep ex resp s) := by
  refine whenLive_answers s ?_
  cases s.ds with
  | waitOpcode => exact answers_next s
  | readPayload => exact answers_next s
  | execute => exact hex
  | respond => exact respondByte_answers resp s

theorem execHvEnable_answers (en : Byte) (s : State) : Answers (execHvEnable en s) := by
  refine commandStep_answers _ s ?_
  split <;> exact answers_next _

theorem execGetMeas_answers (s : State) : Answers (execGetMeas s) :=
  commandStep_answers _ s (answers_next _)

theorem execSetPwm_answers (period width : U16) (s : State) : Answers (execSetPwm period width s) := by
  refine commandStep_answers _ s ?_
  split <;> exact answers_next _

theorem execFirePulse_answers (duration : U16) (s : State) : Answers (execFirePulse duration s) :=
  commandStep_answers _ s (answers_next _)

theorem execUndefined_answers (op : Byte) (s : State) : Answers (execUndefined op s) :=
  whenLive_answers s (answers_next _)

theorem exec_command_answers {i : Instr} (s : State) (hi : i.isCommand = true) : Answers (exec i s) := by
  cases i with
  | hvEnable en => exact execHvEnable_answers en s
  | getMeas => exact execGetMeas_answers s
  | setPwm period width => exact execSetPwm_answers period width s
  | firePulse duration => exact execFirePulse_answers duration s
  | undefined op => exact execUndefined_answers op s
  | _ => cases hi

theorem execRxEvent_answers (b : Byte) (s : State) : Answers (execRxEvent b s) := by
  refine whenLive_answers s ?_
  cases qPush b s with
  | some t => exact answers_next t
  | none => exact answers_next _

/-! ## The phases of ML (44_supervisor R233 to R238) -/

/-- P0 programs the sector only where its persist has erased it (R36, R134). -/
theorem localPhase_answers {s : State} (hf : s.faulted = false) (hp : s.mlp = .p0Local)
    (hn : s.nvsBusy = .erasedPendingProgram → s.nvs = []) : Answers (localPhase s) := by
  cases hb : s.nvsBusy with
  | erasedPendingProgram =>
    exact ⟨_, (localPhase_of_pending hb).trans (execLopPersist_of_pending hf hp hb (hn hb))⟩
  | idle =>
    cases hlop : s.ports.lop with
    | none => exact ⟨_, localPhase_of_noRequest hb hlop⟩
    | some request =>
      cases request with
      | setSetpoint v => exact ⟨_, (localPhase_of_setSetpoint hb hlop).trans (takeRequest_taken _ hf hp hb)⟩
      | getSetpoint => exact ⟨_, (localPhase_of_getSetpoint hb hlop).trans (takeRequest_taken _ hf hp hb)⟩
      | persist => exact ⟨_, (localPhase_of_offer hb hlop).trans (execLopPersist_of_idle hf hp hb)⟩

theorem controlPhase_answers (s : State) : Answers (controlPhase s) := by
  cases h : needsControl s.ports.now s with
  | true => exact ⟨_, controlPhase_of_due h⟩
  | false => exact ⟨_, controlPhase_of_notDue h⟩

theorem fetchOpcode_answers (b : Byte) (s : State) : Answers (fetchOpcode b s) := by
  cases hop : definedOpcode b with
  | true => exact ⟨_, fetchOpcode_of_defined hop⟩
  | false =>
    rw [fetchOpcode_of_undefined hop]
    exact exec_command_answers s rfl

/-- P3 waits where no byte is there, and the command in the latches answers whatever bytes they hold. -/
theorem dispatchPhase_answers (s : State) : Answers (dispatchPhase s) := by
  have hlatched (hd : s.ds = .execute ∨ s.ds = .respond) : Answers (dispatchPhase s) := by
    rw [dispatchPhase_of_latched hd]
    exact exec_command_answers s (latchedInstr_isCommand s)
  cases hd : s.ds with
  | waitOpcode =>
    cases hq : s.q with
    | nil => exact ⟨_, dispatchPhase_of_noCommand hd hq⟩
    | cons b rest =>
      rw [dispatchPhase_of_opcode hd hq]
      exact fetchOpcode_answers b _
  | readPayload =>
    cases hq : s.q with
    | nil => exact ⟨s, dispatchPhase_of_held hd hq⟩
    | cons b rest => exact ⟨_, dispatchPhase_of_payload hd hq⟩
  | execute => exact hlatched (.inl hd)
  | respond => exact hlatched (.inr hd)

/-! ## Every step -/

theorem mlStep_answers {s : State} (hn : s.nvsBusy = .erasedPendingProgram → s.nvs = []) :
    Answers (mlStep s) := by
  cases hf : s.faulted with
  | true => exact ⟨_, mlStep_faulted hf⟩
  | false =>
    cases hp : s.mlp with
    | p0Local => exact mlStep_of_p0 hf hp ▸ localPhase_answers hf hp hn
    | p1Sample => exact ⟨_, mlStep_of_p1 hf hp⟩
    | p2Control => exact mlStep_of_p2 hf hp ▸ controlPhase_answers s
    | p3Dispatch => exact mlStep_of_p3 hf hp ▸ dispatchPhase_answers s
    | p4Supervise => exact ⟨_, (mlStep_of_p4 hf hp).trans (supervisePhase_of_live hf)⟩

/-- Whoever moves, the step is a next state where a persist under way has erased the sector. -/
theorem perform_answers (m : Mover) {s : State} (hn : s.nvsBusy = .erasedPendingProgram → s.nvs = []) :
    Answers (perform m s) := by
  cases m with
  | rx b => exact execRxEvent_answers b s
  | ml => exact mlStep_answers hn
  | restart => exact answers_next _
  | powerLoss => exact answers_next _

/-- Settles O53: taking the environment's choice keeps the invariant, of which the step needs only that a
persist under way has erased the sector. -/
theorem blockNeverStops : Obligations.BlockNeverStops := fun s hi =>
  perform_answers (nextMove s).mover fun hb => (hi.withMove.persist hb).right

end Sys2Proof.Machine
end
